-- ==== Sys2Proof/Word.lean ====
section
/-! DEFINITION. The value types of 00_scope.md R11: bytes, nibbles, and the 48-byte output report. -/

namespace Sys2Proof

/-- "A byte is an unsigned integer 0 to 255", bit 7 the most significant (00_scope.md R11). -/
abbrev Byte := BitVec 8

/-- "A nibble is an unsigned integer 0 to 15" (00_scope.md R11). -/
abbrev Nibble := BitVec 4

/-- An output report `B[0..47]`: 48 bytes, indexed by the offset (20_memory.md R30). -/
abbrev Report := Vector Byte 48

end Sys2Proof
end

