-- ==== Sys2Proof/Config.lean ====
section
/-! DEFINITION. The constants the spec wires into the block (00_scope.md R7, 10_state.md R22, R26) and the
model's one free value. -/

namespace Sys2Proof

/-- A Command: "a (subcommand: byte, argument: byte) pair" (10_state.md R22). -/
structure Command where
  sub : Byte
  arg : Byte
deriving DecidableEq, Repr

namespace Config

/-- `REPORT_ID`: the report identifier of every send (R7, R80). -/
def reportId : Byte := 0x01

/-- `T_SETTLE` in milliseconds (R7). The model has no time: nothing reads it (R121, R137). -/
def tSettleMs : Nat := 500

/-- `CMD_IMU_ON`, "enable motion sensing" (R7, R22). -/
def cmdImuOn : Command := ⟨0x40, 0x01⟩

/-- `CMD_MODE_STD60`, "set 60 Hz standard report mode" (R7, R22). -/
def cmdModeStd60 : Command := ⟨0x03, 0x30⟩

/-- FREE VALUE. The tag a send draws (30_encoding.md R65: "any value that is unique"; U10). Nothing constrains it;
`pickTag` of Machine/Operands.lean replaces a draw that is already in PEND. DESIGN CHOICE: one such constant serves every
session, so two sessions that have drawn equally often draw the same number; the spec says nothing of how their tags
relate. Log entry 6. -/
opaque freeTag : Nat → Nat

end Config
end Sys2Proof
end

