-- ==== Sys2Proof/Syntax.lean ====
section
/-! DEFINITION. The instructions: one constructor per row of spec/opcode_table.json. -/

namespace Sys2Proof

/-- One constructor per row of spec/opcode_table.json. -/
inductive Instr where
  /-- `NEXT` (40_counter.md R67). -/
  | next
  /-- `ENCODE n, sub, arg`: `n` is any unsigned integer (41_encoder.md R72, 30_encoding.md R54). -/
  | encode (n : Nat) (sub arg : Byte)
  /-- `SEND sub, arg` (42_sender.md R78). -/
  | send (sub arg : Byte)
  /-- `INIT` (43_init_sequence.md R89). -/
  | init
  /-- `BEGIN` (43_init_sequence.md R98). -/
  | beginSession
  /-- `IMU_ON`, the pseudo-operation for `SEND 0x40, 0x01` (30_encoding.md R63). -/
  | imuOn
  /-- `MODE_STD60`, the pseudo-operation for `SEND 0x03, 0x30` (30_encoding.md R63). -/
  | modeStd60
  /-- `RPT`: the output-report format (30_encoding.md R49, R50), a row of the table that is no operation of the block. -/
  | rpt (seq : Nibble) (sub arg : Byte)
  /-- `RPT.IMU_ON`: the report pattern of the Command (0x40, 0x01) (30_encoding.md R57). -/
  | rptImuOn (seq : Nibble)
  /-- `RPT.MODE_STD60`: the report pattern of the Command (0x03, 0x30) (30_encoding.md R57). -/
  | rptModeStd60 (seq : Nibble)
deriving DecidableEq, Repr

/-- The row of spec/opcode_table.json an instruction belongs to, as the table spells it. -/
def Instr.mnemonic : Instr → String
  | .next => "NEXT"
  | .encode _ _ _ => "ENCODE"
  | .send _ _ => "SEND"
  | .init => "INIT"
  | .beginSession => "BEGIN"
  | .imuOn => "IMU_ON"
  | .modeStd60 => "MODE_STD60"
  | .rpt _ _ _ => "RPT"
  | .rptImuOn _ => "RPT.IMU_ON"
  | .rptModeStd60 _ => "RPT.MODE_STD60"

/-- The spelling a decoder gives an instruction's bits: "a decoder reads both as `SEND`" of the two pseudo-operations
(30_encoding.md R63), and the more specific report pattern of R57 wherever it fits. -/
def Instr.canon : Instr → Instr
  | .next => .next
  | .encode n sub arg => .encode n sub arg
  | .send sub arg => .send sub arg
  | .init => .init
  | .beginSession => .beginSession
  | .imuOn => .send Config.cmdImuOn.sub Config.cmdImuOn.arg
  | .modeStd60 => .send Config.cmdModeStd60.sub Config.cmdModeStd60.arg
  | .rpt seq sub arg =>
    if (⟨sub, arg⟩ : Command) = Config.cmdImuOn then .rptImuOn seq
    else if (⟨sub, arg⟩ : Command) = Config.cmdModeStd60 then .rptModeStd60 seq
    else .rpt seq sub arg
  | .rptImuOn seq => .rptImuOn seq
  | .rptModeStd60 seq => .rptModeStd60 seq

end Sys2Proof
end

