-- ==== Sys2Proof/WellFormed.lean ====
section
/-! DEFINITION. Which instructions have a binary form. -/

namespace Sys2Proof

/-- An instruction has a binary form when its operands fit their fields. Only `ENCODE`'s sequence operand can fail to:
the rule holds for every unsigned `n` (30_encoding.md R54) and the `REQ` field has `W_SEQ` = 8 bits (R52). -/
def Instr.wf : Instr → Bool
  | .next => true
  | .encode n _ _ => decide (n < 256)
  | .send _ _ => true
  | .init => true
  | .beginSession => true
  | .imuOn => true
  | .modeStd60 => true
  | .rpt _ _ _ => true
  | .rptImuOn _ => true
  | .rptModeStd60 _ => true

end Sys2Proof
end

