-- ==== Sys2Proof/Decode.lean ====
section
/-! DEFINITION. The decoder, total on any bytes and rejecting by name, and the encoder, both from the formats of
30_encoding.md. A `REQ` word (R52) is laid out as its four bytes, bits 31:24 first; a report (R49) as its 48 bytes,
offset 0 first (log entry 7). -/

namespace Sys2Proof

/-- Why bytes select no row of the table. -/
inductive DecodeError where
  /-- A `REQ` word whose `op` is 0x05 to 0xFF: it selects no operation (R60). -/
  | reservedOp (op : Byte)
  /-- 48 bytes that fail the equation of R50: "not a report of this block" (R59). -/
  | notAReport
  /-- Neither 4 bytes (`REQ`) nor 48 (`RPT48`): no format of R48 has another length. -/
  | badLength (n : Nat)
deriving DecidableEq, Repr

/-- The four bytes of a `REQ` word: `op`, `n`, `sub`, `arg` (R52: bits 31:24, 23:16, 15:8, 7:0). -/
def reqBytes (w : BitVec 32) : List Byte :=
  [w.extractLsb' 24 8, w.extractLsb' 16 8, w.extractLsb' 8 8, w.extractLsb' 0 8]

/-- The 48 bytes of a 384-bit number, byte 0 the most significant: `B[i]` occupies bits `8*(47-i)+7 : 8*(47-i)` of
`R384(B)` (00_scope.md R11). -/
def r384Bytes (w : Nat) : List Byte :=
  (List.range 48).map fun i => BitVec.ofNat 8 (w / 256 ^ (47 - i))

/-- `R384(B)`: the report as one number, byte 0 most significant (00_scope.md R11). -/
def r384 (bytes : List Byte) : Nat :=
  bytes.foldl (fun acc b => acc * 256 + b.toNat) 0

/-- The `RPT48` layout, field by field (R49): `zero_hi` and `seq`, `c1` to `c8`, `sub`, `arg`, 37 bytes `pad`. -/
def rptBytes (seq : Nibble) (sub arg : Byte) : List Byte :=
  [seq.setWidth 8, 0x00, 0x01, 0x00, 0x00, 0x00, 0x01, 0x00, 0x00, sub, arg] ++ List.replicate 37 0x00

/-- A `REQ` word by its fields (R52, R56). Fields an operation does not use are ignored (R60). -/
def decodeReq (op n sub arg : Byte) : Except DecodeError Instr :=
  match op.toNat with
  | 0 => .ok .next
  | 1 => .ok (.encode n.toNat sub arg)
  | 2 => .ok (.send sub arg)
  | 3 => .ok .init
  | 4 => .ok .beginSession
  | _ => .error (.reservedOp op)

/-- Bytes as an output report: accepted exactly when they are the `RPT48` layout of their own `seq`, `sub` and `arg`
fields (R49, R50); the patterns of the two Commands (R57) come first. -/
def decodeReport (bytes : List Byte) : Except DecodeError Instr :=
  let seq : Nibble := (bytes.getD 0 0).setWidth 4
  let sub := bytes.getD 9 0
  let arg := bytes.getD 10 0
  if bytes = rptBytes seq sub arg then .ok (Instr.rpt seq sub arg).canon else .error .notAReport

/-- The decoder: four bytes are a `REQ` word, 48 a report, and no other length is a format (R48, R61). -/
def decode (bytes : List Byte) : Except DecodeError Instr :=
  match bytes with
  | [op, n, sub, arg] => decodeReq op n sub arg
  | bytes => if bytes.length = 48 then decodeReport bytes else .error (.badLength bytes.length)

/-- The encoder. Unused fields of a `REQ` word are written 0. -/
def encode : Instr → List Byte
  | .next => [0x00, 0x00, 0x00, 0x00]
  | .encode n sub arg => [0x01, BitVec.ofNat 8 n, sub, arg]
  | .send sub arg => [0x02, 0x00, sub, arg]
  | .init => [0x03, 0x00, 0x00, 0x00]
  | .beginSession => [0x04, 0x00, 0x00, 0x00]
  | .imuOn => [0x02, 0x00, 0x40, 0x01]
  | .modeStd60 => [0x02, 0x00, 0x03, 0x30]
  | .rpt seq sub arg => rptBytes seq sub arg
  | .rptImuOn seq => rptBytes seq 0x40 0x01
  | .rptModeStd60 seq => rptBytes seq 0x03 0x30

/-- The bytes of a table row's word: at most 32 bits a `REQ` word, above that a report's `R384` number. -/
def tableBytes (nbits w : Nat) : List Byte :=
  if nbits ≤ 32 then reqBytes (BitVec.ofNat 32 w) else r384Bytes w

/-- The instruction the decoder reads from an instruction whose bits are `w`, numbered as spec/opcode_table.json
numbers them. -/
def decodeTableWord (nbits w : Nat) : Option Instr :=
  match decode (tableBytes nbits w) with
  | .ok i => some i
  | .error _ => none

/-- The mask of R50 (96 hex digits, byte 0 first). -/
def rptMask : BitVec 384 :=
  0xf0ffffffffffffffff0000ffffffffffffffffffffffffffffffffffffffffffffffffffffffffffffffffffffffffff

/-- The match of R50. -/
def rptMatch : BitVec 384 :=
  0x000001000000010000000000000000000000000000000000000000000000000000000000000000000000000000000000

/-- A row of R52's operation table: `op`'s match and mask on the `REQ` word. -/
structure ReqRow where
  mnemonic : String
  mask : BitVec 32
  pattern : BitVec 32
deriving DecidableEq, Repr

/-- The operation table of R52. -/
def reqTable : List ReqRow :=
  [⟨"NEXT", 0xFF000000, 0x00000000⟩, ⟨"ENCODE", 0xFF000000, 0x01000000⟩, ⟨"SEND", 0xFF000000, 0x02000000⟩,
   ⟨"INIT", 0xFF000000, 0x03000000⟩, ⟨"BEGIN", 0xFF000000, 0x04000000⟩]

end Sys2Proof
end

