-- ==== Sys2Proof/Machine/State.lean ====
section
/-! DEFINITION. The state of one session of the block, the events it takes and emits, its stops, and its reset. -/

namespace Sys2Proof.Machine

/-- `IS`, the state of the InitializationSequence (10_state.md R17; six values: 90_conflicts.md C1). -/
inductive InitState where
  | notStarted
  | sensorEnabling
  | settling
  | modeSwitching
  | done
  | failed
deriving DecidableEq, Repr

/-- Who issued a send (10_state.md R20, 42_sender.md R78). -/
inductive Owner where
  | host
  | init
deriving DecidableEq, Repr

/-- A tag: names one pending send (30_encoding.md R65). -/
abbrev Tag := Nat

/-- One entry of `PEND` (10_state.md R20). -/
structure PendEntry where
  tag : Tag
  owner : Owner
  payload : Report
deriving DecidableEq, Repr

/-- The three error kinds (60_exceptions.md R104). -/
inductive ErrKind where
  | capabilityUnavailable
  | openFailure
  | sendFailure
deriving DecidableEq, Repr

/-- Where a failure arose (60_exceptions.md R108). -/
inductive Origin where
  /-- The capability check of `BEGIN`. -/
  | beginRequest
  /-- The transport open of `BEGIN`. -/
  | transportOpen
  /-- The (0x40, 0x01) send of the sequence. -/
  | step1
  /-- The (0x03, 0x30) send of the sequence. -/
  | step3
  /-- A `SEND` issued by the host directly. -/
  | hostSend
deriving DecidableEq, Repr

/-- The status a response carries (30_encoding.md R53). -/
inductive Status where
  | ok
  | fail (err : ErrKind) (origin : Origin)
deriving DecidableEq, Repr

/-- The events the block emits: the responses of 30_encoding.md R53 and the transport requests of R51 and
43_init_sequence.md R98. -/
inductive OutEvent where
  | nextRsp (v : Nibble)
  | encodeRsp (B : Report)
  | sendAck (t : Tag)
  | sendRsp (t : Tag) (status : Status)
  | initRsp (status : Status)
  /-- `BEGIN_RSP` has no `ok` form (R53, 90_conflicts.md C10). -/
  | beginRspFail (err : ErrKind) (origin : Origin)
  | txOpen
  | txSend (t : Tag) (reportId : Byte) (payload : Report)
deriving DecidableEq, Repr

/-- The moves of the agents outside the block (00_scope.md R10, 70_reset_and_hazards.md R140). -/
inductive Move where
  /-- The host presents a request: the bytes of its word (30_encoding.md R52). -/
  | request (bytes : List Byte)
  /-- The host's `k`-th held `SEND` request, still up, is considered again (42_sender.md R79). -/
  | offerHeld (k : Nat)
  /-- `OPEN_DONE(ok or fail)` (43_init_sequence.md R100, R101). -/
  | openDone (ok : Bool)
  /-- `SEND_DONE(t, ok or fail)` (42_sender.md R81, R82). -/
  | sendDone (t : Tag) (ok : Bool)
  /-- `TIMER_EXPIRE` (43_init_sequence.md R92). -/
  | timerExpire
  /-- The environment sets `CAP` (R140). -/
  | setCap (b : Bool)
  /-- An inbound-report notification; it does not pass through the block (60_exceptions.md R112). -/
  | inbound (payload : List Byte)
  /-- `RESET`: the host discards the ended session and creates a new one (70_reset_and_hazards.md R123, R125). -/
  | newSession
deriving DecidableEq, Repr

/-- `N_OUTSTANDING`: a positive integer or unbounded (00_scope.md R8). -/
inductive HostSlots where
  /-- `N_OUTSTANDING` = `extra + 1`. -/
  | bounded (extra : Nat)
  | unbounded
deriving DecidableEq, Repr

/-- One session. `cnt` to `pend` are the spec's five state elements (10_state.md); `cap` and `slots` its input and its
parameter (00_scope.md R8); `held` the host's held requests (42_sender.md R79); `moves`, `out` and `draws` are the
model's own (log entries 1, 2, 6). -/
structure State where
  /-- `CNT`, 4 bits (R14, R15). -/
  cnt : Nibble
  /-- `IS` (R17). -/
  is : InitState
  /-- `OPENING` (R18). -/
  opening : Bool
  /-- `TMR` (R19). -/
  tmr : Bool
  /-- `PEND`, in issue order, no tag twice (R20). -/
  pend : List PendEntry
  /-- `CAP`, an input (R8, R98). -/
  cap : Bool
  /-- `N_OUTSTANDING`, a parameter (R8, R79). -/
  slots : HostSlots
  /-- The host `SEND` requests being held, oldest first (R79). -/
  held : List Command
  /-- The coming moves of the agents outside the block, oldest first. -/
  moves : List Move
  /-- The events emitted in this session, oldest first. -/
  out : List OutEvent
  /-- How many tags have been drawn. -/
  draws : Nat
deriving DecidableEq, Repr

/-- Why the machine stops. -/
inductive Fault where
  /-- Raised by `takeOpenDone`: an `OPEN_DONE` while `OPENING` = 0, which the spec assumes never to occur
  (60_exceptions.md R111; 93_implementation_defined.md U7 offers the fault). Safe. -/
  | spuriousOpenDone
  /-- Raised by `takeSendDone`: a `SEND_DONE` for a tag not in `PEND` (R84, R111, U7). Safe. -/
  | spuriousSendDone (t : Tag)
  /-- Raised by `takeTimerExpire`: a `TIMER_EXPIRE` while `TMR` = 0 (R111, U7). Safe. -/
  | spuriousTimerExpire
  /-- Raised by `takeSendDone`: the completion of an `INIT` send while `IS` is neither `SensorEnabling` nor
  `ModeSwitching`: R81 and R82 give it no continuation. No run reaches it. Safe. -/
  | initSendOutOfSequence (t : Tag)
  /-- Raised by `takeOfferHeld`: the host has no `k`-th held request. No agent makes such a move. Safe. -/
  | noSuchHeldRequest (k : Nat)
deriving DecidableEq, Repr

/-- Why a request has no meaning. -/
inductive Refusal where
  /-- Raised by an arm of `exec` that has no meaning yet. Safe. -/
  | notModelled (mnemonic : String)
  /-- Raised by `step`: the request's bytes select no row (30_encoding.md R60, R59). Safe. -/
  | undecodable (e : DecodeError)
  /-- Raised by `INIT` outside its guard: "a model gives the request no step and no meaning" (43_init_sequence.md R95).
  Safe. -/
  | initNotAdmitted
  /-- Raised by `BEGIN` outside its guard (43_init_sequence.md R102). Safe. -/
  | beginNotAdmitted
  /-- Raised by `takeNewSession`: `RESET` while anything is pending: "no step: refused" (70_reset_and_hazards.md R140,
  R125), or while a request is held (log entry 10). Safe. -/
  | resetWhilePending
  /-- Raised by the three `RPT` rows: "Not an operation of the block but the data format it emits"
  (opcode_table.json; 30_encoding.md R48, R56). Safe. -/
  | outputFormatOnly
deriving DecidableEq, Repr

/-- The state after `RESET`: the five elements as 10_state.md R29 has them. `slots` is the hardware instance's
N_OUTSTANDING = 1 (R8). DESIGN CHOICE: `cap` (log entry 3), `moves` (1), `out` (2), `held` (5), `draws` (6). -/
def State.reset : State where
  cnt := 0
  is := .notStarted
  opening := false
  tmr := false
  pend := []
  cap := true
  slots := .bounded 0
  held := []
  moves := []
  out := []
  draws := 0

end Sys2Proof.Machine
end

