-- ==== Sys2Proof/Machine/Flags.lean ====
section
/-! DEFINITION. The block has no flags and no condition codes (10_state.md R25): an operation's outcome is the status
in its response. This file holds the numeric codes of that status (60_exceptions.md R108). -/

namespace Sys2Proof.Machine

/-- `rsp_err` of an error kind (R108). -/
def ErrKind.code : ErrKind → Nat
  | .capabilityUnavailable => 1
  | .openFailure => 2
  | .sendFailure => 3

/-- `rsp_origin` (R108). -/
def Origin.code : Origin → Nat
  | .beginRequest => 0
  | .transportOpen => 1
  | .step1 => 2
  | .step3 => 3
  | .hostSend => 4

/-- `rsp_err` of a status: 0 is success (R108). -/
def Status.errCode : Status → Nat
  | .ok => 0
  | .fail err _ => err.code

/-- `rsp_origin` of a status, which a success does not have (R108). -/
def Status.originCode : Status → Option Nat
  | .ok => none
  | .fail _ origin => some origin.code

end Sys2Proof.Machine
end

