-- ==== Sys2Proof/Machine/Operands.lean ====
section
/-! DEFINITION. How operands are formed: the sequence byte, the report built from the three stamped fields, and the
tag of a send. -/

namespace Sys2Proof.Machine

/-- Byte 0 of a report: `zext_8(n mod 16)` (30_encoding.md R54, 20_memory.md R33). -/
def seqByte (n : Nat) : Byte := BitVec.ofNat 8 (n % 16)

/-- `encode(n, sub, arg)`: 48 zero bytes, then the five stores of 41_encoder.md R72, in its order. -/
def encodeReport (n : Nat) (sub arg : Byte) : Report :=
  (((((Vector.replicate 48 (0x00 : Byte)).set 0 (seqByte n)).set 2 0x01).set 6 0x01).set 9 sub).set 10 arg

/-- The tags in use (30_encoding.md R65). -/
def usedTags (pend : List PendEntry) : List Tag := pend.map (·.tag)

/-- A number above every tag in use. -/
def tagAbove (used : List Tag) : Tag := used.foldr (fun t m => max (t + 1) m) 0

/-- "Any tag not in PEND" (42_sender.md R78): the drawn tag where it is fresh, else one above all in use. Every fresh
tag is the result of some draw. -/
def pickTag (used : List Tag) (draw : Tag) : Tag := if draw ∈ used then tagAbove used else draw

end Sys2Proof.Machine
end

