-- ==== Sys2Proof/Machine/Ops.lean ====
section
/-! DEFINITION. The operations the instructions and events share. -/

namespace Sys2Proof.Machine

/-- `emit E`: produce an output event (00_scope.md R11). -/
def State.emit (s : State) (e : OutEvent) : State := { s with out := s.out ++ [e] }

/-- `IS <- v`. -/
def State.setIs (s : State) (v : InitState) : State := { s with is := v }

/-- `OPENING <- v`. -/
def State.setOpening (s : State) (v : Bool) : State := { s with opening := v }

/-- `TMR <- v`. -/
def State.setTmr (s : State) (v : Bool) : State := { s with tmr := v }

/-- The host's held requests become `v`. -/
def State.setHeld (s : State) (v : List Command) : State := { s with held := v }

/-- The environment puts `CAP` at `v`. -/
def State.setCap (s : State) (v : Bool) : State := { s with cap := v }

/-- `CNT <- (CNT + 1) mod 2^CNT_W` with `CNT_W` = 4 (40_counter.md R67). -/
def State.advance (s : State) : State := { s with cnt := s.cnt + 1 }

/-- The tag the next send gets: any fresh one (10_state.md R20). DESIGN CHOICE: the tag depends on the pending tags
and the count of draws alone, not on the session, the owner or the Command, so how the tags of different sessions, or of
different sends from one state, relate, which the spec leaves open, is the model's (log entry 6). -/
def State.nextTag (s : State) : Tag := pickTag (usedTags s.pend) (Config.freeTag s.draws)

/-- `PEND[t] <- (owner, B)` for the tag the next send gets; the draw is used up. -/
def State.addPend (s : State) (owner : Owner) (B : Report) : State :=
  { s with pend := s.pend ++ [⟨s.nextTag, owner, B⟩], draws := s.draws + 1 }

/-- `PEND[t]`. -/
def State.findPend (s : State) (t : Tag) : Option PendEntry := s.pend.find? (fun e => e.tag == t)

/-- `remove t from PEND`. -/
def State.removePend (s : State) (t : Tag) : State := { s with pend := s.pend.filter (fun e => e.tag != t) }

/-- The number of entries of `PEND` with an owner. -/
def State.countPend (s : State) (owner : Owner) : Nat := s.pend.countP (fun e => e.owner == owner)

/-- Whether a further host `SEND` is held: `N_OUTSTANDING` host sends are pending (42_sender.md R79). -/
def State.hostFull (s : State) : Bool :=
  match s.slots with
  | .bounded extra => decide (extra + 1 ≤ s.countPend .host)
  | .unbounded => false

/-- The issue phase of `SEND`, one atomic step (42_sender.md R78): (a) read and advance the counter, (b) build the
report, (c) hand it to the transport under a fresh tag. -/
def State.issue (s : State) (owner : Owner) (sub arg : Byte) : State :=
  let B := encodeReport s.cnt.toNat sub arg
  let t := s.nextTag
  let s' := ((s.advance).addPend owner B).emit (.txSend t Config.reportId B)
  match owner with
  | .host => s'.emit (.sendAck t)
  | .init => s'

/-- A host `SEND` request of any spelling: issued, or held with no other effect (42_sender.md R78, R79). -/
def State.hostSend (s : State) (c : Command) : State :=
  if s.hostFull then s.setHeld (s.held ++ [c]) else s.issue .host c.sub c.arg

/-- The guard of `INIT` and `BEGIN` (43_init_sequence.md R95). -/
def State.admitsInit (s : State) : Bool := decide (s.is = .notStarted) && !s.opening

/-- The request step of `INIT` (43_init_sequence.md R89), also performed when an open succeeds (R101). -/
def State.startSequence (s : State) : State :=
  (s.setIs .sensorEnabling).issue .init Config.cmdImuOn.sub Config.cmdImuOn.arg

/-- The five places a failure arises (60_exceptions.md R105 to R107). -/
inductive Failure where
  | capability
  | openFailed
  | hostSend (t : Tag)
  | step1
  | step3
deriving DecidableEq, Repr

/-- `raise <Error>(origin)`, the block's only exception entry (60_exceptions.md R104, R115): emit the failure response
of the operation in hand and make the raising rule's writes. It saves no state and transfers no control, and nothing
returns from it (R117). -/
def State.raise (s : State) : Failure → State
  | .capability => s.emit (.beginRspFail .capabilityUnavailable .beginRequest)
  | .openFailed => (s.setOpening false).emit (.beginRspFail .openFailure .transportOpen)
  | .hostSend t => s.emit (.sendRsp t (.fail .sendFailure .hostSend))
  | .step1 => (s.setIs .failed).emit (.initRsp (.fail .sendFailure .step1))
  | .step3 => (s.setIs .failed).emit (.initRsp (.fail .sendFailure .step3))

/-- Whether `IS` is `NotStarted`, `Done` or `Failed`: no part of the sequence is running (70_reset_and_hazards.md R128). -/
def InitState.resting : InitState → Bool
  | .notStarted => true
  | .sensorEnabling => false
  | .settling => false
  | .modeSwitching => false
  | .done => true
  | .failed => true

/-- Quiescent: nothing pending (70_reset_and_hazards.md R128). -/
def State.quiescent (s : State) : Bool := s.pend.isEmpty && !s.opening && !s.tmr && s.is.resting

/-- A new session on this copy of the block (70_reset_and_hazards.md R123): every element at its reset value. The
environment's side (`cap`, `moves`), the parameter `slots` and the tag counter are not the session's and stay. -/
def State.newSession (s : State) : State :=
  { State.reset with cap := s.cap, slots := s.slots, moves := s.moves, draws := s.draws }

end Sys2Proof.Machine
end

