-- ==== Sys2Proof/Machine/Counter.lean ====
section
/-! DEFINITION. PacketCounter and `NEXT` (40_counter.md). -/

namespace Sys2Proof.Machine

/-- `NEXT` (R67): return `CNT mod 16`, then add one. Always enabled, never fails. -/
def execNext (s : State) : Host.Outcome State Fault Refusal :=
  .next ((s.advance).emit (.nextRsp s.cnt))

end Sys2Proof.Machine
end

