-- ==== Sys2Proof/Machine/Encoder.lean ====
section
/-! DEFINITION. ReportEncoder and `ENCODE` (41_encoder.md), and the three report rows of the table. -/

namespace Sys2Proof.Machine

/-- `ENCODE n, sub, arg` (R72): answer the report; no state element is read or written (R73). -/
def execEncode (n : Nat) (sub arg : Byte) (s : State) : Host.Outcome State Fault Refusal :=
  .next (s.emit (.encodeRsp (encodeReport n sub arg)))

/-- The answer to a report row: the block takes no report as a request (30_encoding.md R48: block to transport to
device; R56: "There are five operations"). -/
def refuseReport (_ : State) : Host.Outcome State Fault Refusal := .refused .outputFormatOnly

/-- `RPT`: no operation of the block (30_encoding.md R48, R56). -/
def execRpt (_ : Nibble) (_ _ : Byte) (s : State) : Host.Outcome State Fault Refusal := refuseReport s

/-- `RPT.IMU_ON`: no operation of the block (30_encoding.md R57, R48). -/
def execRptImuOn (_ : Nibble) (s : State) : Host.Outcome State Fault Refusal := refuseReport s

/-- `RPT.MODE_STD60`: no operation of the block (30_encoding.md R57, R48). -/
def execRptModeStd60 (_ : Nibble) (s : State) : Host.Outcome State Fault Refusal := refuseReport s

end Sys2Proof.Machine
end

