-- ==== Sys2Proof/Machine/InitSequence.lean ====
section
/-! DEFINITION. InitializationSequence, `INIT` and `BEGIN`, and the steps that continue them (43_init_sequence.md). -/

namespace Sys2Proof.Machine

/-- `INIT`, request step (R89); refused outside its guard (R95). -/
def execInit (s : State) : Host.Outcome State Fault Refusal :=
  if s.admitsInit then .next s.startSequence else .refused .initNotAdmitted

/-- `BEGIN`, request step (R98, R99); refused outside its guard (R102). `CAP` is sampled here only. -/
def execBegin (s : State) : Host.Outcome State Fault Refusal :=
  if s.admitsInit then
    if s.cap then .next ((s.setOpening true).emit .txOpen) else .next (s.raise .capability)
  else .refused .beginNotAdmitted

/-- `OPEN_DONE(ok or fail)` (R100, R101). -/
def takeOpenDone (ok : Bool) (s : State) : Host.Outcome State Fault Refusal :=
  if s.opening then
    if ok then .next (s.setOpening false).startSequence else .next (s.raise .openFailed)
  else .fault .spuriousOpenDone

/-- `TIMER_EXPIRE` (R92): disarm the timer and issue the second Command. -/
def takeTimerExpire (s : State) : Host.Outcome State Fault Refusal :=
  if s.tmr then
    .next (((s.setTmr false).setIs .modeSwitching).issue .init Config.cmdModeStd60.sub Config.cmdModeStd60.arg)
  else .fault .spuriousTimerExpire

/-- The completion of one of the sequence's own sends (R90, R91, R93, R94); the entry has left `PEND`. -/
def completeInitSend (t : Tag) (ok : Bool) (s : State) : Host.Outcome State Fault Refusal :=
  match s.is with
  | .sensorEnabling => .next (if ok then (s.setIs .settling).setTmr true else s.raise .step1)
  | .modeSwitching => .next (if ok then (s.setIs .done).emit (.initRsp .ok) else s.raise .step3)
  | .notStarted => .fault (.initSendOutOfSequence t)
  | .settling => .fault (.initSendOutOfSequence t)
  | .done => .fault (.initSendOutOfSequence t)
  | .failed => .fault (.initSendOutOfSequence t)

end Sys2Proof.Machine
end

