-- ==== Sys2Proof/Machine/Sender.lean ====
section
/-! DEFINITION. CommandSender and `SEND` (42_sender.md), with its two pseudo-operations and its completion for a host
send. -/

namespace Sys2Proof.Machine

/-- `SEND sub, arg` (R78, R79). It looks at neither `IS`, `OPENING` nor `TMR` (R86). -/
def execSend (sub arg : Byte) (s : State) : Host.Outcome State Fault Refusal :=
  .next (s.hostSend ⟨sub, arg⟩)

/-- `IMU_ON` expands to `SEND 0x40, 0x01` (30_encoding.md R63). -/
def execImuOn (s : State) : Host.Outcome State Fault Refusal :=
  .next (s.hostSend Config.cmdImuOn)

/-- `MODE_STD60` expands to `SEND 0x03, 0x30` (30_encoding.md R63). -/
def execModeStd60 (s : State) : Host.Outcome State Fault Refusal :=
  .next (s.hostSend Config.cmdModeStd60)

/-- The host's `k`-th held `SEND` is considered again (R79): accepted when a slot is free, else still held. -/
def takeOfferHeld (k : Nat) (s : State) : Host.Outcome State Fault Refusal :=
  match s.held[k]? with
  | none => .fault (.noSuchHeldRequest k)
  | some c => if s.hostFull then .next s else .next ((s.setHeld (s.held.eraseIdx k)).issue .host c.sub c.arg)

/-- The completion of a host's send (R81, R82); the entry has left `PEND`. -/
def completeHostSend (t : Tag) (ok : Bool) (s : State) : State :=
  if ok then s.emit (.sendRsp t .ok) else s.raise (.hostSend t)

end Sys2Proof.Machine
end

