-- ==== Sys2Proof/Machine/Events.lean ====
section
/-! DEFINITION. The events that belong to no one family: `SEND_DONE`, which is routed by its entry's owner, the
environment's moves, and the new session (60_exceptions.md R110, 70_reset_and_hazards.md R140). -/

namespace Sys2Proof.Machine

/-- `SEND_DONE(t, ok or fail)` (42_sender.md R81, R82): the entry leaves `PEND` and its owner is answered. -/
def takeSendDone (t : Tag) (ok : Bool) (s : State) : Host.Outcome State Fault Refusal :=
  match s.findPend t with
  | none => .fault (.spuriousSendDone t)
  | some e =>
    match e.owner with
    | .host => .next (completeHostSend t ok (s.removePend t))
    | .init => completeInitSend t ok (s.removePend t)

/-- `CAP` changes; nothing in flight is affected (43_init_sequence.md R99). -/
def takeSetCap (b : Bool) (s : State) : Host.Outcome State Fault Refusal := .next (s.setCap b)

/-- An inbound report "reads and writes no state of this block" (60_exceptions.md R112). -/
def takeInbound (_ : List Byte) (s : State) : Host.Outcome State Fault Refusal := .next s

/-- `RESET` (70_reset_and_hazards.md R123, R125, R128): a new session once the old one's run has ended, that is in a
quiescent state with no request still held; refused otherwise. -/
def takeNewSession (s : State) : Host.Outcome State Fault Refusal :=
  if s.quiescent && s.held.isEmpty then .next s.newSession else .refused .resetWhilePending

end Sys2Proof.Machine
end

