-- ==== Sys2Proof/Machine/Dispatch.lean ====
section
/-! DEFINITION. The meaning of each instruction, one arm per row of the table. -/

namespace Sys2Proof.Machine

def exec (i : Instr) (s : State) : Host.Outcome State Fault Refusal :=
  match i with
  | .next => Sys2Proof.Machine.execNext s
  | .encode n sub arg => Sys2Proof.Machine.execEncode n sub arg s
  | .send sub arg => Sys2Proof.Machine.execSend sub arg s
  | .init => Sys2Proof.Machine.execInit s
  | .beginSession => Sys2Proof.Machine.execBegin s
  | .imuOn => Sys2Proof.Machine.execImuOn s
  | .modeStd60 => Sys2Proof.Machine.execModeStd60 s
  | .rpt seq sub arg => Sys2Proof.Machine.execRpt seq sub arg s
  | .rptImuOn seq => Sys2Proof.Machine.execRptImuOn seq s
  | .rptModeStd60 seq => Sys2Proof.Machine.execRptModeStd60 seq s

end Sys2Proof.Machine
end

