-- ==== Sys2Proof/Machine/Moves.lean ====
section
/-! DEFINITION. What the block does with one move of the agents outside it (60_exceptions.md R110, 70_reset_and_hazards.md
R140). -/

namespace Sys2Proof.Machine

/-- A request of the host: the instruction its bytes decode to, or refused where they select none (30_encoding.md R60). -/
def takeRequest (bytes : List Byte) (s : State) : Host.Outcome State Fault Refusal :=
  match decode bytes with
  | .ok i => exec i s
  | .error e => .refused (.undecodable e)

/-- One move, taken whole. -/
def takeMove (m : Move) (s : State) : Host.Outcome State Fault Refusal :=
  match m with
  | .request bytes => takeRequest bytes s
  | .offerHeld k => takeOfferHeld k s
  | .openDone ok => takeOpenDone ok s
  | .sendDone t ok => takeSendDone t ok s
  | .timerExpire => takeTimerExpire s
  | .setCap b => takeSetCap b s
  | .inbound payload => takeInbound payload s
  | .newSession => takeNewSession s

/-- No agent moves: the block waits, and nothing changes (70_reset_and_hazards.md R128, R133). DESIGN CHOICE: waiting is a step
of its own (log entry 1). -/
def idle (s : State) : Host.Outcome State Fault Refusal := .next s

end Sys2Proof.Machine
end

