-- ==== Sys2Proof/Machine/Step.lean ====
section
/-! DEFINITION. One step: the next move of the agents outside the block is taken whole (20_memory.md R39, 60_exceptions.md
R113). -/

namespace Sys2Proof.Machine

/-- One atomic step. -/
def step (s : State) : Host.Outcome State Fault Refusal :=
  match s.moves with
  | [] => idle s
  | m :: rest => takeMove m { s with moves := rest }

/-- `s` with the table word `w` as the request the host makes next. -/
def State.withFetchWord (s : State) (nbits w : Nat) : State :=
  { s with moves := .request (tableBytes nbits w) :: s.moves }

end Sys2Proof.Machine
end

