-- ==== Sys2Proof/Machine/Runs.lean ====
section
/-! DEFINITION. A run of one session: its moves one after another, a refused request passed over (70_reset_and_hazards.md
R128). -/

namespace Sys2Proof.Machine

/-- Whether a move is a request of the host. -/
def Move.isRequest : Move → Bool
  | .request _ => true
  | .offerHeld _ => false
  | .openDone _ => false
  | .sendDone _ _ => false
  | .timerExpire => false
  | .setCap _ => false
  | .inbound _ => false
  | .newSession => false

/-- The next move, a request the block refuses, is over: the block "changes no state, emits nothing to the transport"
(43_init_sequence.md R95; 30_encoding.md R60), and the run goes on to its other requests (R128). The one refused move
that is no request, `RESET` while anything is pending, is not passed over (R125). Log entry 8. -/
def State.passOver (s : State) : State :=
  match s.moves with
  | [] => s
  | m :: rest => if m.isRequest then { s with moves := rest } else s

/-- One move of a run. A move the spec assumes never to occur (a fault) leaves the run where it is (log entry 9). -/
def State.move (s : State) : State :=
  match step s with
  | .next s' => s'
  | .fault _ => s
  | .refused _ => s.passOver

/-- The requests of this session still to come: those before the next `RESET`, which starts another run (R125). -/
def State.comingRequests (s : State) : List Move :=
  (s.moves.takeWhile (fun m => decide (m ≠ .newSession))).filter Move.isRequest

/-- A run has ended: every request has been accepted or refused, and the state is quiescent (R128). A held request is
neither yet (42_sender.md R79). -/
def State.runEnded (s : State) : Prop := s.comingRequests = [] ∧ s.held = [] ∧ s.quiescent = true

end Sys2Proof.Machine
end

