-- ==== Sys2Proof/Machine/Sessions.lean ====
section
/-! DEFINITION. Several sessions side by side (60_exceptions.md R122): each is a copy of the block with a state of its own,
and a step of one "reads and writes nothing of another" (10_state.md R13). Log entry 18. -/

namespace Sys2Proof.Machine

/-- The sessions, each at its place; they "have no identifiers in the source" (R122). -/
abbrev Fleet := List State

/-- One move of the `k`-th session's run. -/
def Fleet.step (f : Fleet) (k : Nat) : Fleet := f.modify k State.move

/-- The sessions' moves interleaved as `sched` says. -/
def Fleet.run (f : Fleet) (sched : List Nat) : Fleet := sched.foldl Fleet.step f

end Sys2Proof.Machine
end

