-- ==== Sys2Proof/Safety.lean ====
section
/-! DEFINITION. What the statements say about states: the invariant of one session, and the laws of its emitted events. -/

namespace Sys2Proof.Machine

/-- How many entries of `PEND` the sequence owns in each state: one while it awaits a completion (10_state.md R20). -/
def InitState.awaited : InitState → Nat
  | .notStarted => 0
  | .sensorEnabling => 1
  | .settling => 0
  | .modeSwitching => 1
  | .done => 0
  | .failed => 0

/-- `n` host sends are at most `N_OUTSTANDING` (42_sender.md R79). -/
def HostSlots.allows : HostSlots → Nat → Prop
  | .bounded extra, n => n ≤ extra + 1
  | .unbounded, _ => True

/-- A report the block can produce (30_encoding.md R50). -/
def IsReport (B : Report) : Prop := ∃ n sub arg, B = encodeReport n sub arg

/-- The invariant of a session (10_state.md R19, R20; 43_init_sequence.md R95, R102; 42_sender.md R79, R80). -/
structure State.Inv (s : State) : Prop where
  tags_distinct : (usedTags s.pend).Nodup
  timer_iff_settling : s.tmr = true ↔ s.is = .settling
  init_pending : s.countPend .init = s.is.awaited
  open_before_start : s.opening = true → s.is = .notStarted
  host_room : s.slots.allows (s.countPend .host)
  payloads : ∀ e ∈ s.pend, IsReport e.payload

/-- The sequence value an event makes visible: `NEXT`'s answer, or byte 0 of a transmitted report (10_state.md R16). -/
def OutEvent.seqValue : OutEvent → Option Nat
  | .nextRsp v => some v.toNat
  | .encodeRsp _ => none
  | .sendAck _ => none
  | .sendRsp _ _ => none
  | .initRsp _ => none
  | .beginRspFail _ _ => none
  | .txOpen => none
  | .txSend _ _ B => some (B[0]).toNat

/-- The sequence values of a list of events, in order. -/
def seqValues (out : List OutEvent) : List Nat := out.filterMap OutEvent.seqValue

/-- Whether an event is a `TX_SEND`. -/
def OutEvent.isTxSend : OutEvent → Bool
  | .txSend _ _ _ => true
  | .nextRsp _ => false
  | .encodeRsp _ => false
  | .sendAck _ => false
  | .sendRsp _ _ => false
  | .initRsp _ => false
  | .beginRspFail _ _ => false
  | .txOpen => false

/-- Whether an event is a `SEND_ACK`, which answers the issue of a host `SEND` and no other (30_encoding.md R53). -/
def OutEvent.isSendAck : OutEvent → Bool
  | .sendAck _ => true
  | .nextRsp _ => false
  | .encodeRsp _ => false
  | .txSend _ _ _ => false
  | .sendRsp _ _ => false
  | .initRsp _ => false
  | .beginRspFail _ _ => false
  | .txOpen => false

/-- Whether an event is an `INIT_RSP`. -/
def OutEvent.isInitRsp : OutEvent → Bool
  | .initRsp _ => true
  | .nextRsp _ => false
  | .encodeRsp _ => false
  | .txSend _ _ _ => false
  | .sendAck _ => false
  | .sendRsp _ _ => false
  | .beginRspFail _ _ => false
  | .txOpen => false

/-- Whether a status is a failure. -/
def Status.isFail : Status → Bool
  | .ok => false
  | .fail _ _ => true

/-- Whether an event is a failure response (60_exceptions.md R104). -/
def OutEvent.isFailure : OutEvent → Bool
  | .nextRsp _ => false
  | .encodeRsp _ => false
  | .sendAck _ => false
  | .sendRsp _ st => st.isFail
  | .initRsp st => st.isFail
  | .beginRspFail _ _ => true
  | .txOpen => false
  | .txSend _ _ _ => false

/-- The law of the counter over a session's events (40_counter.md R68, 20_memory.md R42, 42_sender.md R85): the `k`-th
advance since `RESET` shows `k mod 16`, and `CNT` is the number of advances modulo 16. -/
structure State.CounterLaw (s : State) : Prop where
  values : seqValues s.out = (List.range (seqValues s.out).length).map (· % 16)
  counter : s.cnt.toNat = (seqValues s.out).length % 16

/-- The law of the sequence over a session's events (43_init_sequence.md R103): the sends that no `SEND_ACK` answers are
the sequence's own, none before it starts, one up to the end of the wait, two from there on; a failure names the step
reached; and `INIT_RSP` is emitted once, at the end. -/
structure State.SequenceLaw (s : State) : Prop where
  own_sends :
    match s.is with
    | .notStarted => s.out.countP OutEvent.isTxSend = s.out.countP OutEvent.isSendAck
    | .sensorEnabling => s.out.countP OutEvent.isTxSend = s.out.countP OutEvent.isSendAck + 1
    | .settling => s.out.countP OutEvent.isTxSend = s.out.countP OutEvent.isSendAck + 1
    | .modeSwitching => s.out.countP OutEvent.isTxSend = s.out.countP OutEvent.isSendAck + 2
    | .done => s.out.countP OutEvent.isTxSend = s.out.countP OutEvent.isSendAck + 2 ∧ .initRsp .ok ∈ s.out
    | .failed =>
      (s.out.countP OutEvent.isTxSend = s.out.countP OutEvent.isSendAck + 1 ∧
        .initRsp (.fail .sendFailure .step1) ∈ s.out) ∨
      (s.out.countP OutEvent.isTxSend = s.out.countP OutEvent.isSendAck + 2 ∧
        .initRsp (.fail .sendFailure .step3) ∈ s.out)
  one_response : s.out.countP OutEvent.isInitRsp = if s.is = .done ∨ s.is = .failed then 1 else 0

/-- Where `IS` may go from each of its values in one step within a session (43_init_sequence.md R88, R96): it stays, or
takes a row of the transition table. -/
def InitState.mayBecome : InitState → InitState → Prop
  | .notStarted, v => v = .notStarted ∨ v = .sensorEnabling
  | .sensorEnabling, v => v = .sensorEnabling ∨ v = .settling ∨ v = .failed
  | .settling, v => v = .settling ∨ v = .modeSwitching
  | .modeSwitching, v => v = .modeSwitching ∨ v = .done ∨ v = .failed
  | .done, v => v = .done
  | .failed, v => v = .failed

end Sys2Proof.Machine
end

