-- ==== Sys2Proof/Certificates/Slice0/Obligations.lean ====
section
/-! DEFINITION. The statements for the provers. An equation `… = .next { s with … }` says the result and the frame at
once: every field it does not name is unchanged. -/

open Sys2Proof Sys2Proof.Machine

/-! Encoding -/

/-- Decoding an instruction's bytes gives the instruction, in the spelling a decoder uses (R52, R49, R63). That the report of
a wired-in Command is read as that Command's row and any other report as `RPT` is the model's choice (log entry 11). -/
def Obligations.DecodeOfEncodeIsTheInstruction : Prop :=
  ∀ i : Instr, i.wf = true → decode (encode i) = .ok i.canon

/-- R52: the operation table and the fields of the `REQ` word. -/
def Obligations.RequestWordDecodesByItsTableRow : Prop :=
  ∀ w : BitVec 32,
    (∀ row ∈ reqTable,
      w &&& row.mask = row.pattern ↔ ∃ i, decode (reqBytes w) = .ok i ∧ i.mnemonic = row.mnemonic) ∧
    ((∀ row ∈ reqTable, w &&& row.mask ≠ row.pattern) → ∃ op, decode (reqBytes w) = .error (.reservedOp op)) ∧
    (∀ n sub arg, decode (reqBytes w) = .ok (.encode n sub arg) →
      n = w.toNat / 2 ^ 16 % 256 ∧ sub.toNat = w.toNat / 2 ^ 8 % 256 ∧ arg.toNat = w.toNat % 256) ∧
    (∀ sub arg, decode (reqBytes w) = .ok (.send sub arg) →
      sub.toNat = w.toNat / 2 ^ 8 % 256 ∧ arg.toNat = w.toNat % 256)

/-- R60: words with `op` 0x05 to 0xFF are refused, and unused operand fields are ignored. -/
def Obligations.ReservedOpRefusedAndUnusedFieldsIgnored : Prop :=
  (∀ (s : State) (rest : List Move) (op n sub arg : Byte), 5 ≤ op.toNat →
    s.moves = .request [op, n, sub, arg] :: rest → step s = .refused (.undecodable (.reservedOp op))) ∧
  (∀ n sub arg : Byte, decode [0x00, n, sub, arg] = .ok .next ∧ decode [0x02, n, sub, arg] = .ok (.send sub arg) ∧
    decode [0x03, n, sub, arg] = .ok .init ∧ decode [0x04, n, sub, arg] = .ok .beginSession)

/-- Words of 95_test_vectors.md decode to the operations that file gives them. -/
def Obligations.SpecVectorWordsDecode : Prop :=
  decodeTableWord 32 0x00ABCDEF = some .next ∧
  decodeTableWord 32 0x01104001 = some (.encode 16 0x40 0x01) ∧
  decodeTableWord 32 0x0200AA55 = some (.send 0xAA 0x55) ∧
  decodeTableWord 32 0x03000000 = some .init ∧
  decodeTableWord 32 0x04000000 = some .beginSession ∧
  decodeTableWord 32 0x02004001 = some (.send 0x40 0x01)

/-- R50: a 48-byte value satisfies the mask and match equation exactly when the block can produce it, and then it is
`encode` of its own bytes 0, 9 and 10. -/
def Obligations.MaskAndMatchAreExactlyTheReports : Prop :=
  ∀ B : Report, BitVec.ofNat 384 (r384 B.toList) &&& rptMask = rptMatch ↔
    B = encodeReport (B[0]).toNat B[9] B[10]

/-! ReportEncoder -/

/-- Bytes 1 to 8 and 11 to 47 do not depend on the inputs, and `encode` is injective on `(n mod 16, sub, arg)`:
R76, which derives both from R72. -/
def Obligations.ReportsDifferOnlyInTheStampedBytes : Prop :=
  ∀ (n n' : Nat) (sub sub' arg arg' : Byte),
    (∀ (i : Nat) (h : i < 48), i ≠ 0 → i ≠ 9 → i ≠ 10 →
      (encodeReport n sub arg)[i] = (encodeReport n' sub' arg')[i]) ∧
    (encodeReport n sub arg = encodeReport n' sub' arg' ↔ n % 16 = n' % 16 ∧ sub = sub' ∧ arg = arg')

/-- R72, R73, R74: `ENCODE` always answers the 48 bytes the rule lists, and changes nothing else. -/
def Obligations.EncodeAnswersTheListedBytes : Prop :=
  ∀ (n : Nat) (sub arg : Byte) (s : State), ∃ B : Report,
    B.toList = [BitVec.ofNat 8 (n % 16), 0x00, 0x01, 0x00, 0x00, 0x00, 0x01, 0x00, 0x00, sub, arg] ++
      List.replicate 37 0x00 ∧
    exec (.encode n sub arg) s = .next { s with out := s.out ++ [.encodeRsp B] }

/-! PacketCounter -/

/-- R67: `NEXT` returns the counter and then adds one, modulo 16. -/
def Obligations.NextReturnsTheCounterThenAdvances : Prop :=
  ∀ s : State, ∃ c : Nibble, c.toNat = (s.cnt.toNat + 1) % 16 ∧
    exec .next s = .next { s with cnt := c, out := s.out ++ [.nextRsp s.cnt] }

/-- R68: `k` requests `NEXT` in a row return `k` consecutive values modulo 16, from any state. -/
def Obligations.ConsecutiveNextsCountModuloSixteen : Prop :=
  ∀ (k : Nat) (s : State) (rest : List Move),
    s.moves = List.replicate k (.request (encode .next)) ++ rest →
    Host.Core.run Sys2Proof.core k s = .next { s with
      moves := rest
      cnt := s.cnt + BitVec.ofNat 4 k
      out := s.out ++ (List.range k).map fun j => .nextRsp (s.cnt + BitVec.ofNat 4 j) }

/-- The counter moves only forward by one (R70), each advance showing its value once (R67, R78), and neither a `SEND_DONE`
(R83) nor a failed open (R100) moves it. -/
def Obligations.CounterOnlyAdvancesAndNeverRollsBack : Prop :=
  ∀ s s' : State, step s = .next s' → s.moves.head? ≠ some .newSession →
    ((s'.cnt = s.cnt ∧ seqValues s'.out = seqValues s.out) ∨
      (s'.cnt = s.cnt + 1 ∧ seqValues s'.out = seqValues s.out ++ [s.cnt.toNat])) ∧
    (∀ t ok, s.moves.head? = some (.sendDone t ok) → s'.cnt = s.cnt ∧ seqValues s'.out = seqValues s.out) ∧
    (s.moves.head? = some (.openDone false) → s'.cnt = s.cnt ∧ seqValues s'.out = seqValues s.out)

/-! CommandSender -/

/-- R78, R86: while a host slot is free a host `SEND` performs the issue phase, whatever `IS`, `OPENING` and `TMR` are;
the same phase with owner `INIT` has no guard and no `SEND_ACK`. That a send of either owner, with any operands, draws the
same tag `t` from the same state is the model's choice (log entry 6); the spec gives each its own fresh tag. -/
def Obligations.SendPerformsTheIssuePhase : Prop :=
  ∀ (s : State) (sub arg : Byte), ∃ t : Tag, t ∉ usedTags s.pend ∧
    (s.slots.allows (s.countPend .host + 1) →
      exec (.send sub arg) s = .next { s with
        cnt := s.cnt + 1
        pend := s.pend ++ [⟨t, .host, encodeReport s.cnt.toNat sub arg⟩]
        out := s.out ++ [.txSend t 0x01 (encodeReport s.cnt.toNat sub arg), .sendAck t]
        draws := s.draws + 1 }) ∧
    s.issue .init sub arg = { s with
      cnt := s.cnt + 1
      pend := s.pend ++ [⟨t, .init, encodeReport s.cnt.toNat sub arg⟩]
      out := s.out ++ [.txSend t 0x01 (encodeReport s.cnt.toNat sub arg)]
      draws := s.draws + 1 }

/-- R63, R22: the two pseudo-operations issue a host send of their Command. That both draw the same tag `t` from the same
state is the model's choice (log entry 6); the spec gives each its own fresh tag. The form with no slot free is
`SendIsHeldWhileHostSlotsAreFull`. -/
def Obligations.PseudoOpsIssueTheirCommands : Prop :=
  ∀ s : State, s.slots.allows (s.countPend .host + 1) → ∃ t : Tag, t ∉ usedTags s.pend ∧
    exec .imuOn s = .next { s with
      cnt := s.cnt + 1
      pend := s.pend ++ [⟨t, .host, encodeReport s.cnt.toNat 0x40 0x01⟩]
      out := s.out ++ [.txSend t 0x01 (encodeReport s.cnt.toNat 0x40 0x01), .sendAck t]
      draws := s.draws + 1 } ∧
    exec .modeStd60 s = .next { s with
      cnt := s.cnt + 1
      pend := s.pend ++ [⟨t, .host, encodeReport s.cnt.toNat 0x03 0x30⟩]
      out := s.out ++ [.txSend t 0x01 (encodeReport s.cnt.toNat 0x03 0x30), .sendAck t]
      draws := s.draws + 1 }

/-- R79: while `N_OUTSTANDING` host sends are pending a host `SEND` of any spelling is held and changes nothing of the
block. The list of held requests is the model's own (log entry 5). -/
def Obligations.SendIsHeldWhileHostSlotsAreFull : Prop :=
  ∀ s : State, ¬ s.slots.allows (s.countPend .host + 1) →
    (∀ sub arg, exec (.send sub arg) s = .next { s with held := s.held ++ [⟨sub, arg⟩] }) ∧
    exec .imuOn s = .next { s with held := s.held ++ [⟨0x40, 0x01⟩] } ∧
    exec .modeStd60 s = .next { s with held := s.held ++ [⟨0x03, 0x30⟩] }

/-- R79: a held `SEND` is issued when it is considered again with a slot free, and stays held otherwise (log entry 5). -/
def Obligations.HeldSendIsIssuedOnceASlotIsFree : Prop :=
  ∀ (s : State) (k : Nat) (c : Command) (rest : List Move), s.moves = .offerHeld k :: rest → s.held[k]? = some c →
    (¬ s.slots.allows (s.countPend .host + 1) → step s = .next { s with moves := rest }) ∧
    (s.slots.allows (s.countPend .host + 1) → ∃ t : Tag, t ∉ usedTags s.pend ∧ step s = .next { s with
      moves := rest
      held := s.held.eraseIdx k
      cnt := s.cnt + 1
      pend := s.pend ++ [⟨t, .host, encodeReport s.cnt.toNat c.sub c.arg⟩]
      out := s.out ++ [.txSend t 0x01 (encodeReport s.cnt.toNat c.sub c.arg), .sendAck t]
      draws := s.draws + 1 })

/-- R81, R90, R93: completion of a pending send with success, by its owner. -/
def Obligations.SendDoneOkAnswersTheOwner : Prop :=
  ∀ (s : State) (t : Tag) (e : PendEntry) (rest : List Move),
    s.moves = .sendDone t true :: rest → s.findPend t = some e →
    (e.owner = .host → step s = .next { s with
      moves := rest
      pend := s.pend.filter (fun x => x.tag != t)
      out := s.out ++ [.sendRsp t .ok] }) ∧
    (e.owner = .init → s.is = .sensorEnabling → step s = .next { s with
      moves := rest
      pend := s.pend.filter (fun x => x.tag != t)
      is := .settling
      tmr := true }) ∧
    (e.owner = .init → s.is = .modeSwitching → step s = .next { s with
      moves := rest
      pend := s.pend.filter (fun x => x.tag != t)
      is := .done
      out := s.out ++ [.initRsp .ok] })

/-- R82, R91, R94: completion of a pending send with failure, by its owner. That `SEND_RSP`'s failure carries the origin
`HOST_SEND` is read from R107 and R108 (log entry 15). -/
def Obligations.SendDoneFailRaisesSendFailure : Prop :=
  ∀ (s : State) (t : Tag) (e : PendEntry) (rest : List Move),
    s.moves = .sendDone t false :: rest → s.findPend t = some e →
    (e.owner = .host → step s = .next { s with
      moves := rest
      pend := s.pend.filter (fun x => x.tag != t)
      out := s.out ++ [.sendRsp t (.fail .sendFailure .hostSend)] }) ∧
    (e.owner = .init → s.is = .sensorEnabling → step s = .next { s with
      moves := rest
      pend := s.pend.filter (fun x => x.tag != t)
      is := .failed
      out := s.out ++ [.initRsp (.fail .sendFailure .step1)] }) ∧
    (e.owner = .init → s.is = .modeSwitching → step s = .next { s with
      moves := rest
      pend := s.pend.filter (fun x => x.tag != t)
      is := .failed
      out := s.out ++ [.initRsp (.fail .sendFailure .step3)] })

/-- R80: every transmission a step adds carries identifier 0x01 and a report, which is pending under its tag, a fresh one,
after the step. A step within a session only adds events. -/
def Obligations.EveryTransmissionIsAReportWithIdentifierOne : Prop :=
  ∀ s s' : State, step s = .next s' →
    (s.moves.head? ≠ some .newSession → ∃ evs, s'.out = s.out ++ evs) ∧
    (∀ (evs : List OutEvent) (t : Tag) (id : Byte) (B : Report), s'.out = s.out ++ evs → .txSend t id B ∈ evs →
      id = 0x01 ∧ IsReport B ∧ t ∉ usedTags s.pend ∧ ∃ e ∈ s'.pend, e.tag = t ∧ e.payload = B)

/-! InitializationSequence -/

/-- R89: `INIT` in its guard starts the sequence with the first Command; otherwise it is refused. -/
def Obligations.InitIssuesTheSensorCommand : Prop :=
  ∀ s : State,
    (s.is = .notStarted → s.opening = false → ∃ t : Tag, t ∉ usedTags s.pend ∧
      exec .init s = .next { s with
        is := .sensorEnabling
        cnt := s.cnt + 1
        pend := s.pend ++ [⟨t, .init, encodeReport s.cnt.toNat 0x40 0x01⟩]
        out := s.out ++ [.txSend t 0x01 (encodeReport s.cnt.toNat 0x40 0x01)]
        draws := s.draws + 1 }) ∧
    (s.is ≠ .notStarted ∨ s.opening = true → exec .init s = .refused .initNotAdmitted)

/-- R95: outside `IS = NotStarted`, `OPENING = 0` both `INIT` and `BEGIN` are refused. -/
def Obligations.InitAndBeginAreRefusedOutsideTheGuard : Prop :=
  ∀ s : State, ¬ (s.is = .notStarted ∧ s.opening = false) →
    exec .init s = .refused .initNotAdmitted ∧ exec .beginSession s = .refused .beginNotAdmitted

/-- R98, R99, R105: `BEGIN` in its guard asks the transport to open, or fails at once where the capability is absent, and
it is refused outside its guard. -/
def Obligations.BeginOpensOrReportsMissingCapability : Prop :=
  ∀ s : State,
    (s.is = .notStarted → s.opening = false → s.cap = true →
      exec .beginSession s = .next { s with opening := true, out := s.out ++ [.txOpen] }) ∧
    (s.is = .notStarted → s.opening = false → s.cap = false →
      exec .beginSession s = .next { s with out := s.out ++ [.beginRspFail .capabilityUnavailable .beginRequest] }) ∧
    (s.is ≠ .notStarted ∨ s.opening = true → exec .beginSession s = .refused .beginNotAdmitted)

/-- R100, R101, R106: a failed open is reported and starts nothing; a successful one starts the sequence. -/
def Obligations.OpenDoneReportsOrStartsTheSequence : Prop :=
  ∀ (s : State) (rest : List Move), s.opening = true →
    (s.moves = .openDone false :: rest → step s = .next { s with
      moves := rest
      opening := false
      out := s.out ++ [.beginRspFail .openFailure .transportOpen] }) ∧
    (s.moves = .openDone true :: rest → ∃ t : Tag, t ∉ usedTags s.pend ∧ step s = .next { s with
      moves := rest
      opening := false
      is := .sensorEnabling
      cnt := s.cnt + 1
      pend := s.pend ++ [⟨t, .init, encodeReport s.cnt.toNat 0x40 0x01⟩]
      out := s.out ++ [.txSend t 0x01 (encodeReport s.cnt.toNat 0x40 0x01)]
      draws := s.draws + 1 })

/-- R92: the expiry of the settling delay issues the second Command. -/
def Obligations.TimerExpireIssuesTheModeCommand : Prop :=
  ∀ (s : State) (rest : List Move), s.tmr = true → s.moves = .timerExpire :: rest →
    ∃ t : Tag, t ∉ usedTags s.pend ∧ step s = .next { s with
      moves := rest
      tmr := false
      is := .modeSwitching
      cnt := s.cnt + 1
      pend := s.pend ++ [⟨t, .init, encodeReport s.cnt.toNat 0x03 0x30⟩]
      out := s.out ++ [.txSend t 0x01 (encodeReport s.cnt.toNat 0x03 0x30)]
      draws := s.draws + 1 }

/-- R96: within a session `IS` takes only the arrows of the transition table. -/
def Obligations.InitStateIsMonotone : Prop :=
  ∀ s s' : State, s.Inv → step s = .next s' → s.moves.head? ≠ some .newSession → s.is.mayBecome s'.is

/-- R103, R44: the sequence's own sends are handed over in order only, the second Command only on `TIMER_EXPIRE` out of
the wait, which `IS` enters only by the first send's success. -/
def Obligations.SequenceSendsComeInOrder : Prop :=
  ∀ (s s' : State) (e : PendEntry), s.Inv → step s = .next s' → e ∈ s'.pend → e ∉ s.pend → e.owner = .init →
    (s.is = .notStarted ∧ s'.is = .sensorEnabling ∧ e.payload = encodeReport s.cnt.toNat 0x40 0x01) ∨
    (s.is = .settling ∧ s.moves.head? = some .timerExpire ∧ s'.is = .modeSwitching ∧
      e.payload = encodeReport s.cnt.toNat 0x03 0x30)

/-- R103 (Scenario C): from any state in `BEGIN`'s guard with the capability present, a transport that answers every
request with `ok` and a timer that expires bring the sequence to `Done` in five moves, with exactly two sends, in order. -/
def Obligations.HealthyBeginReachesDone : Prop :=
  ∀ (s : State) (rest : List Move), s.is = .notStarted → s.opening = false → s.cap = true →
    ∃ t t' : Tag, t ∉ usedTags s.pend ∧ t' ∉ usedTags s.pend ∧
      Host.Core.run Sys2Proof.core 5 { s with
        moves := [.request (encode .beginSession), .openDone true, .sendDone t true, .timerExpire, .sendDone t' true] ++
          rest } = .next { s with
        moves := rest
        tmr := false
        is := .done
        cnt := s.cnt + 2
        out := s.out ++ [.txOpen, .txSend t 0x01 (encodeReport s.cnt.toNat 0x40 0x01),
          .txSend t' 0x01 (encodeReport (s.cnt + 1).toNat 0x03 0x30), .initRsp .ok]
        draws := s.draws + 2 }

/-! Failures, events, environment -/

/-- R115: a step that emits a failure response emits that one response and makes only the writes R105 to R107 list, each in
the place where that failure arises. That a `SEND_RSP`'s failure carries the origin `HOST_SEND` is log entry 15. -/
def Obligations.FailureMakesOnlyTheListedWrites : Prop :=
  ∀ (s s' : State) (evs : List OutEvent), step s = .next s' → s'.out = s.out ++ evs →
    (∃ e ∈ evs, e.isFailure = true) →
    ((∃ bytes, s.moves.head? = some (.request bytes) ∧ decode bytes = .ok .beginSession) ∧ s.cap = false ∧
      evs = [.beginRspFail .capabilityUnavailable .beginRequest] ∧
      s' = { s with moves := s.moves.tail, out := s.out ++ evs }) ∨
    (s.moves.head? = some (.openDone false) ∧ evs = [.beginRspFail .openFailure .transportOpen] ∧
      s' = { s with moves := s.moves.tail, out := s.out ++ evs, opening := false }) ∨
    (∃ t e, s.moves.head? = some (.sendDone t false) ∧ s.findPend t = some e ∧ e.owner = .host ∧
      evs = [.sendRsp t (.fail .sendFailure .hostSend)] ∧
      s' = { s with moves := s.moves.tail, out := s.out ++ evs, pend := s.pend.filter (fun x => x.tag != t) }) ∨
    (∃ t e, s.moves.head? = some (.sendDone t false) ∧ s.findPend t = some e ∧ e.owner = .init ∧
      ((s.is = .sensorEnabling ∧ evs = [.initRsp (.fail .sendFailure .step1)]) ∨
        (s.is = .modeSwitching ∧ evs = [.initRsp (.fail .sendFailure .step3)])) ∧
      s' = { s with
        moves := s.moves.tail
        out := s.out ++ evs
        pend := s.pend.filter (fun x => x.tag != t)
        is := .failed })

/-- R108: the codes of error kinds and origins. -/
def Obligations.ErrorAndOriginCodes : Prop :=
  Status.ok.errCode = 0 ∧ ErrKind.capabilityUnavailable.code = 1 ∧ ErrKind.openFailure.code = 2 ∧
  ErrKind.sendFailure.code = 3 ∧ Origin.beginRequest.code = 0 ∧ Origin.transportOpen.code = 1 ∧
  Origin.step1.code = 2 ∧ Origin.step3.code = 3 ∧ Origin.hostSend.code = 4

/-- R84, R102, R111: a completion the block does not wait for has no step. The model's choice, which
93_implementation_defined.md U7 offers, is a fault (log entry 9). -/
def Obligations.UnawaitedCompletionsFault : Prop :=
  ∀ (s : State) (rest : List Move) (ok : Bool) (t : Tag),
    (s.opening = false → s.moves = .openDone ok :: rest → step s = .fault .spuriousOpenDone) ∧
    (t ∉ usedTags s.pend → s.moves = .sendDone t ok :: rest → step s = .fault (.spuriousSendDone t)) ∧
    (s.tmr = false → s.moves = .timerExpire :: rest → step s = .fault .spuriousTimerExpire)

/-- R112: an inbound report reads and writes no state of the block. -/
def Obligations.InboundReportTouchesNoState : Prop :=
  ∀ (s : State) (payload : List Byte) (rest : List Move), s.moves = .inbound payload :: rest →
    step s = .next { s with moves := rest }

/-- R133, R21, R87: what is suspended stays so, unchanged, until its own answer: a pending send with its owner and
payload, a pending open, the running delay. -/
def Obligations.SuspendedUntilItsOwnAnswer : Prop :=
  ∀ s s' : State, step s = .next s' →
    (∀ e ∈ s.pend, (∀ ok, s.moves.head? ≠ some (.sendDone e.tag ok)) → e ∈ s'.pend) ∧
    (s.opening = true → (∀ ok, s.moves.head? ≠ some (.openDone ok)) → s'.opening = true) ∧
    (s.tmr = true → s.moves.head? ≠ some .timerExpire → s'.tmr = true)

/-- R99: `CAP` is sampled in `BEGIN`'s request step only: a step of two states that differ in `CAP` alone, taking any other
move, has the same outcome but for `CAP`. -/
def Obligations.CapIsReadOnlyByBegin : Prop :=
  ∀ (s : State) (c : Bool),
    (∀ bytes rest, s.moves = .request bytes :: rest → decode bytes ≠ .ok .beginSession) →
    match step s, step { s with cap := c } with
    | .next a, .next b => ∃ d, b = { a with cap := d }
    | .fault r, .fault r' => r = r'
    | .refused r, .refused r' => r = r'
    | _, _ => False

/-- The environment sets the input `CAP` to either value at any time, and nothing of the block changes (R140, R99). -/
def Obligations.EnvironmentSetsCap : Prop :=
  ∀ (s : State) (b : Bool) (rest : List Move), s.moves = .setCap b :: rest →
    step s = .next { s with moves := rest, cap := b }

/-- Where the machine goes on, for every move: exactly where the guard the model gives the move holds (R60, R95, R102, R111,
R125). The model's choices: it goes on with no move left (log entry 1), and with a `SEND` or a held request that finds no
host slot free, where R78's guard is false and the request is held (log entry 5); it takes `RESET` only with nothing held
(log entry 10); the refusals and faults elsewhere are log entries 8 to 11. -/
def Obligations.StepGoesOnExactlyWhereTheGuardHolds : Prop :=
  ∀ s : State, s.Inv →
    ((∃ s', step s = .next s') ↔
      match s.moves with
      | [] => True
      | .request bytes :: _ =>
        match decode bytes with
        | .ok .next => True
        | .ok (.encode _ _ _) => True
        | .ok (.send _ _) => True
        | .ok .imuOn => True
        | .ok .modeStd60 => True
        | .ok .init => s.is = .notStarted ∧ s.opening = false
        | .ok .beginSession => s.is = .notStarted ∧ s.opening = false
        | .ok (.rpt _ _ _) => False
        | .ok (.rptImuOn _) => False
        | .ok (.rptModeStd60 _) => False
        | .error _ => False
      | .offerHeld k :: _ => k < s.held.length
      | .openDone _ :: _ => s.opening = true
      | .sendDone t _ :: _ => t ∈ usedTags s.pend
      | .timerExpire :: _ => s.tmr = true
      | .setCap _ :: _ => True
      | .inbound _ :: _ => True
      | .newSession :: _ => s.quiescent = true ∧ s.held = [])

/-- In a quiescent state no event of the transport or the timer is enabled (R128). That such an event is a fault, and not
merely without a step, is the model's choice (log entry 9). -/
def Obligations.QuiescentStateEnablesNoEvent : Prop :=
  ∀ (s : State) (m : Move) (rest : List Move), s.quiescent = true → s.moves = m :: rest →
    ((∃ ok, m = .openDone ok) ∨ (∃ t ok, m = .sendDone t ok) ∨ m = .timerExpire) → ∃ r, step s = .fault r

/-- The three report rows of the table are no operations of the block (R48, R56): the model refuses them (log entry 11). -/
def Obligations.ReportRowsAreNoOperations : Prop :=
  ∀ (s : State) (seq : Nibble) (sub arg : Byte),
    exec (.rpt seq sub arg) s = .refused .outputFormatOnly ∧ exec (.rptImuOn seq) s = .refused .outputFormatOnly ∧
    exec (.rptModeStd60 seq) s = .refused .outputFormatOnly

/-! The step -/

/-- A step that takes a request runs the instruction its bytes decode to, on the state with the request taken. -/
def Obligations.StepRunsTheDecodedInstruction : Prop :=
  ∀ (s : State) (bytes : List Byte) (rest : List Move) (i : Instr), s.moves = .request bytes :: rest →
    decode bytes = .ok i → step s = exec i { s with moves := rest }

/-- A placed table word is what the very next step runs. Placing is the model's (log entry 1): the block stores no program,
and `withFetchWord` makes the word the host's next request. -/
def Obligations.PlacedWordIsRunNext : Prop :=
  ∀ (s : State) (nbits w : Nat) (i : Instr), decodeTableWord nbits w = some i →
    step (s.withFetchWord nbits w) = exec i s

/-- With no move of any agent the block does nothing, however long (R128, R133). That the machine answers an idle next state,
the same state, when its list of moves is empty is the model's choice (log entry 1): R9 gives every step one event. -/
def Obligations.BlockWaitsWhileNobodyMoves : Prop :=
  ∀ (k : Nat) (s : State), s.moves = [] → Host.Core.run Sys2Proof.core k s = .next s

/-! The end of a run -/

/-- A run passes a refused request over with no change of the block (R60, R95, R102), and otherwise its move is the
machine's step. That a run is such a sequence of moves is log entry 8. -/
def Obligations.RunPassesRefusedRequestsOver : Prop :=
  ∀ s : State,
    (∀ (r : Refusal) (bytes : List Byte) (rest : List Move), s.moves = .request bytes :: rest →
      step s = .refused r → s.move = { s with moves := rest }) ∧
    (∀ s', step s = .next s' → s.move = s')

/-- R128: once the sequence has ended and nothing is pending or held, any further requests but `SEND`s are each accepted or
refused, and the run ends, with `IS` as it was and no event emitted but the answers of `NEXT` and `ENCODE`. That a refused
request is one move of a run is log entry 8. -/
def Obligations.RunEndsWithItsLastRequest : Prop :=
  ∀ (s : State) (reqs : List (List Byte)) (rest : List Move), (s.is = .done ∨ s.is = .failed) → s.quiescent = true →
    s.held = [] → (∀ bytes ∈ reqs, ∀ sub arg, decode bytes ≠ .ok (.send sub arg)) →
    (∀ m ∈ rest, m.isRequest = false) → s.moves = reqs.map .request ++ rest →
    (State.move^[reqs.length] s).runEnded ∧ (State.move^[reqs.length] s).is = s.is ∧
      (State.move^[reqs.length] s).moves = rest ∧
      ∃ evs, (State.move^[reqs.length] s).out = s.out ++ evs ∧ ∀ e ∈ evs, (∃ v, e = .nextRsp v) ∨ ∃ B, e = .encodeRsp B

/-! Reset and sessions -/

/-- R29: the five state elements after `RESET`. -/
def Obligations.ResetValuesOfTheFiveElements : Prop :=
  State.reset.cnt = 0 ∧ State.reset.is = .notStarted ∧ State.reset.opening = false ∧ State.reset.tmr = false ∧
  State.reset.pend = []

/-- R123, R125, R140: a new session is created where the old one's run has ended and is refused while anything is pending.
That the environment's fields stay, and that held requests alone refuse it too (R128 lets no run end with a request neither
accepted nor refused, but R125 and R140 refuse only a state that is not quiescent), is the model's choice (log entry 10). -/
def Obligations.NewSessionOnlyFromAnEndedRun : Prop :=
  ∀ (s : State) (rest : List Move), s.moves = .newSession :: rest →
    (s.quiescent = true → s.held = [] → step s = .next { s with
      moves := rest
      cnt := 0
      is := .notStarted
      opening := false
      tmr := false
      pend := []
      out := [] }) ∧
    (s.quiescent = false ∨ s.held ≠ [] → step s = .refused .resetWhilePending)

/-- R13, R71, R122: in any interleaving each session ends where its own moves alone take it. It speaks of `Fleet.step` and
`Fleet.run` only: that sessions are a list of states, and one whose move has no step stays in place, is the model's choice
(log entry 18). -/
def Obligations.SessionsAreIndependent : Prop :=
  ∀ (f : Fleet) (sched : List Nat) (j : Nat),
    (f.run sched)[j]? = (f[j]?).map fun s => State.move^[sched.count j] s

/-! Invariants -/

/-- The session invariant and both laws of the emitted events hold after reset. -/
def Obligations.InvariantsHoldAfterReset : Prop :=
  State.reset.Inv ∧ State.reset.CounterLaw ∧ State.reset.SequenceLaw

/-- Every step keeps the session invariant (R19, R20, R79, R80, R95). -/
def Obligations.StepKeepsTheSessionInvariant : Prop :=
  ∀ s s' : State, s.Inv → step s = .next s' → s'.Inv

/-- Every step keeps the law of the counter: the `k`-th advance since `RESET`, by `NEXT` or by a send of either owner,
shows `k mod 16` (R68, R42, R85). -/
def Obligations.StepKeepsTheCounterLaw : Prop :=
  ∀ s s' : State, s.CounterLaw → step s = .next s' → s'.CounterLaw

/-- Every step keeps the law of the sequence: at most two sends of its own, and one response at the end (R103). -/
def Obligations.StepKeepsTheSequenceLaw : Prop :=
  ∀ s s' : State, s.Inv → s.SequenceLaw → step s = .next s' → s'.SequenceLaw
end

