-- ==== Sys2Proof/Laws/Encoding.lean ====
section
/-! SUPPORT. The report function and the codec: what each answers, said once. -/

namespace Sys2Proof

@[simp] theorem rptBytes_length (q : Nibble) (s a : Byte) : (rptBytes q s a).length = 48 := rfl

@[simp] theorem rptBytes_getD_zero (q : Nibble) (s a : Byte) : (rptBytes q s a).getD 0 0 = q.setWidth 8 := rfl

@[simp] theorem rptBytes_getD_nine (q : Nibble) (s a : Byte) : (rptBytes q s a).getD 9 0 = s := rfl

@[simp] theorem rptBytes_getD_ten (q : Nibble) (s a : Byte) : (rptBytes q s a).getD 10 0 = a := rfl

@[simp] theorem nibble_setWidth_setWidth (q : Nibble) : (q.setWidth 8).setWidth 4 = q := by
  revert q; decide

@[simp] theorem decodeReport_rptBytes (q : Nibble) (s a : Byte) :
    decodeReport (rptBytes q s a) = .ok (Instr.rpt q s a).canon := by
  simp only [decodeReport, rptBytes_getD_zero, rptBytes_getD_nine, rptBytes_getD_ten, nibble_setWidth_setWidth,
    if_true]

/-- Accepted bytes are the layout of the instruction they decode to. -/
theorem decodeReport_ok {bytes : List Byte} {i : Instr} (h : decodeReport bytes = .ok i) :
    ∃ q s a, bytes = rptBytes q s a ∧ i = (Instr.rpt q s a).canon := by
  simp only [decodeReport] at h
  split at h
  · exact ⟨_, _, _, ‹_›, by simpa using h.symm⟩
  · cases h

theorem decode_of_length_48 {bytes : List Byte} (h : bytes.length = 48) : decode bytes = decodeReport bytes := by
  unfold decode
  split
  · simp at h
  · simp [h]

@[simp] theorem decode_req (op n sub arg : Byte) : decode [op, n, sub, arg] = decodeReq op n sub arg := rfl

@[simp] theorem decode_rptBytes (q : Nibble) (s a : Byte) :
    decode (rptBytes q s a) = .ok (Instr.rpt q s a).canon := by
  rw [decode_of_length_48 (rptBytes_length q s a), decodeReport_rptBytes]

/-- What decoded bytes are: a `REQ` word's four, or a report's 48. -/
theorem decode_ok {bytes : List Byte} {i : Instr} (h : decode bytes = .ok i) :
    (∃ op n s a, bytes = [op, n, s, a] ∧ decodeReq op n s a = .ok i) ∨
    (∃ q s a, bytes = rptBytes q s a ∧ i = (Instr.rpt q s a).canon) := by
  unfold decode at h
  split at h
  · exact .inl ⟨_, _, _, _, rfl, h⟩
  · split at h
    · exact .inr (decodeReport_ok h)
    · cases h

/-- The `REQ` words that select an operation, by `op` (R52). -/
theorem decodeReq_ok {op n s a : Byte} {i : Instr} (h : decodeReq op n s a = .ok i) :
    (op = 0 ∧ i = .next) ∨ (op = 1 ∧ i = .encode n.toNat s a) ∨ (op = 2 ∧ i = .send s a) ∨
    (op = 3 ∧ i = .init) ∨ (op = 4 ∧ i = .beginSession) := by
  have eq_of : ∀ k : Nat, k < 256 → op.toNat = k → op = BitVec.ofNat 8 k := fun k hk ho =>
    BitVec.eq_of_toNat_eq (by rw [ho, BitVec.toNat_ofNat, Nat.mod_eq_of_lt hk])
  unfold decodeReq at h
  split at h
  · rename_i ho; cases h; exact .inl ⟨eq_of 0 (by decide) ho, rfl⟩
  · rename_i ho; cases h; exact .inr (.inl ⟨eq_of 1 (by decide) ho, rfl⟩)
  · rename_i ho; cases h; exact .inr (.inr (.inl ⟨eq_of 2 (by decide) ho, rfl⟩))
  · rename_i ho; cases h; exact .inr (.inr (.inr (.inl ⟨eq_of 3 (by decide) ho, rfl⟩)))
  · rename_i ho; cases h; exact .inr (.inr (.inr (.inr ⟨eq_of 4 (by decide) ho, rfl⟩)))
  · cases h

/-- No report decodes to an operation of the block. -/
theorem canon_rpt_cases (q : Nibble) (s a : Byte) :
    (Instr.rpt q s a).canon = .rptImuOn q ∨ (Instr.rpt q s a).canon = .rptModeStd60 q ∨
    (Instr.rpt q s a).canon = .rpt q s a := by
  simp only [Instr.canon]
  split
  · exact .inl rfl
  · split
    · exact .inr (.inl rfl)
    · exact .inr (.inr rfl)

namespace Machine

/-- The 48 bytes of a report (R72). -/
theorem encodeReport_toList (n : Nat) (s a : Byte) :
    (encodeReport n s a).toList =
      [seqByte n, 0x00, 0x01, 0x00, 0x00, 0x00, 0x01, 0x00, 0x00, s, a] ++ List.replicate 37 0x00 := rfl

@[simp] theorem encodeReport_zero (n : Nat) (s a : Byte) : (encodeReport n s a)[0] = seqByte n := rfl

@[simp] theorem encodeReport_nine (n : Nat) (s a : Byte) : (encodeReport n s a)[9] = s := rfl

@[simp] theorem encodeReport_ten (n : Nat) (s a : Byte) : (encodeReport n s a)[10] = a := rfl

@[simp] theorem seqByte_toNat (n : Nat) : (seqByte n).toNat = n % 16 := by
  simp only [seqByte, BitVec.toNat_ofNat]
  omega

theorem seqByte_mod (n : Nat) : seqByte (n % 16) = seqByte n := by simp [seqByte]

/-- The format row `RPT` and the function of R72 are the same 48 bytes. -/
theorem encodeReport_eq_rptBytes (n : Nat) (s a : Byte) :
    (encodeReport n s a).toList = rptBytes (BitVec.ofNat 4 n) s a := by
  have h : seqByte n = (BitVec.ofNat 4 n).setWidth 8 := by
    apply BitVec.eq_of_toNat_eq
    simp only [seqByte_toNat, BitVec.toNat_setWidth, BitVec.toNat_ofNat]
    omega
  rw [encodeReport_toList, h]; rfl

end Machine
end Sys2Proof
end

