-- ==== Sys2Proof/Laws/State.lean ====
section
/-! SUPPORT. One lemma per field per update of the state. -/

namespace Sys2Proof.Machine.State

variable (s : State)

@[simp] theorem emit_cnt (e : OutEvent) : (s.emit e).cnt = s.cnt := rfl
@[simp] theorem emit_is (e : OutEvent) : (s.emit e).is = s.is := rfl
@[simp] theorem emit_opening (e : OutEvent) : (s.emit e).opening = s.opening := rfl
@[simp] theorem emit_tmr (e : OutEvent) : (s.emit e).tmr = s.tmr := rfl
@[simp] theorem emit_pend (e : OutEvent) : (s.emit e).pend = s.pend := rfl
@[simp] theorem emit_cap (e : OutEvent) : (s.emit e).cap = s.cap := rfl
@[simp] theorem emit_slots (e : OutEvent) : (s.emit e).slots = s.slots := rfl
@[simp] theorem emit_held (e : OutEvent) : (s.emit e).held = s.held := rfl
@[simp] theorem emit_moves (e : OutEvent) : (s.emit e).moves = s.moves := rfl
@[simp] theorem emit_out (e : OutEvent) : (s.emit e).out = s.out ++ [e] := rfl
@[simp] theorem emit_draws (e : OutEvent) : (s.emit e).draws = s.draws := rfl

@[simp] theorem setIs_cnt (v : InitState) : (s.setIs v).cnt = s.cnt := rfl
@[simp] theorem setIs_is (v : InitState) : (s.setIs v).is = v := rfl
@[simp] theorem setIs_opening (v : InitState) : (s.setIs v).opening = s.opening := rfl
@[simp] theorem setIs_tmr (v : InitState) : (s.setIs v).tmr = s.tmr := rfl
@[simp] theorem setIs_pend (v : InitState) : (s.setIs v).pend = s.pend := rfl
@[simp] theorem setIs_cap (v : InitState) : (s.setIs v).cap = s.cap := rfl
@[simp] theorem setIs_slots (v : InitState) : (s.setIs v).slots = s.slots := rfl
@[simp] theorem setIs_held (v : InitState) : (s.setIs v).held = s.held := rfl
@[simp] theorem setIs_moves (v : InitState) : (s.setIs v).moves = s.moves := rfl
@[simp] theorem setIs_out (v : InitState) : (s.setIs v).out = s.out := rfl
@[simp] theorem setIs_draws (v : InitState) : (s.setIs v).draws = s.draws := rfl

@[simp] theorem setOpening_cnt (v : Bool) : (s.setOpening v).cnt = s.cnt := rfl
@[simp] theorem setOpening_is (v : Bool) : (s.setOpening v).is = s.is := rfl
@[simp] theorem setOpening_opening (v : Bool) : (s.setOpening v).opening = v := rfl
@[simp] theorem setOpening_tmr (v : Bool) : (s.setOpening v).tmr = s.tmr := rfl
@[simp] theorem setOpening_pend (v : Bool) : (s.setOpening v).pend = s.pend := rfl
@[simp] theorem setOpening_cap (v : Bool) : (s.setOpening v).cap = s.cap := rfl
@[simp] theorem setOpening_slots (v : Bool) : (s.setOpening v).slots = s.slots := rfl
@[simp] theorem setOpening_held (v : Bool) : (s.setOpening v).held = s.held := rfl
@[simp] theorem setOpening_moves (v : Bool) : (s.setOpening v).moves = s.moves := rfl
@[simp] theorem setOpening_out (v : Bool) : (s.setOpening v).out = s.out := rfl
@[simp] theorem setOpening_draws (v : Bool) : (s.setOpening v).draws = s.draws := rfl

@[simp] theorem setTmr_cnt (v : Bool) : (s.setTmr v).cnt = s.cnt := rfl
@[simp] theorem setTmr_is (v : Bool) : (s.setTmr v).is = s.is := rfl
@[simp] theorem setTmr_opening (v : Bool) : (s.setTmr v).opening = s.opening := rfl
@[simp] theorem setTmr_tmr (v : Bool) : (s.setTmr v).tmr = v := rfl
@[simp] theorem setTmr_pend (v : Bool) : (s.setTmr v).pend = s.pend := rfl
@[simp] theorem setTmr_cap (v : Bool) : (s.setTmr v).cap = s.cap := rfl
@[simp] theorem setTmr_slots (v : Bool) : (s.setTmr v).slots = s.slots := rfl
@[simp] theorem setTmr_held (v : Bool) : (s.setTmr v).held = s.held := rfl
@[simp] theorem setTmr_moves (v : Bool) : (s.setTmr v).moves = s.moves := rfl
@[simp] theorem setTmr_out (v : Bool) : (s.setTmr v).out = s.out := rfl
@[simp] theorem setTmr_draws (v : Bool) : (s.setTmr v).draws = s.draws := rfl

@[simp] theorem setHeld_cnt (v : List Command) : (s.setHeld v).cnt = s.cnt := rfl
@[simp] theorem setHeld_is (v : List Command) : (s.setHeld v).is = s.is := rfl
@[simp] theorem setHeld_opening (v : List Command) : (s.setHeld v).opening = s.opening := rfl
@[simp] theorem setHeld_tmr (v : List Command) : (s.setHeld v).tmr = s.tmr := rfl
@[simp] theorem setHeld_pend (v : List Command) : (s.setHeld v).pend = s.pend := rfl
@[simp] theorem setHeld_cap (v : List Command) : (s.setHeld v).cap = s.cap := rfl
@[simp] theorem setHeld_slots (v : List Command) : (s.setHeld v).slots = s.slots := rfl
@[simp] theorem setHeld_held (v : List Command) : (s.setHeld v).held = v := rfl
@[simp] theorem setHeld_moves (v : List Command) : (s.setHeld v).moves = s.moves := rfl
@[simp] theorem setHeld_out (v : List Command) : (s.setHeld v).out = s.out := rfl
@[simp] theorem setHeld_draws (v : List Command) : (s.setHeld v).draws = s.draws := rfl

@[simp] theorem setCap_cnt (v : Bool) : (s.setCap v).cnt = s.cnt := rfl
@[simp] theorem setCap_is (v : Bool) : (s.setCap v).is = s.is := rfl
@[simp] theorem setCap_opening (v : Bool) : (s.setCap v).opening = s.opening := rfl
@[simp] theorem setCap_tmr (v : Bool) : (s.setCap v).tmr = s.tmr := rfl
@[simp] theorem setCap_pend (v : Bool) : (s.setCap v).pend = s.pend := rfl
@[simp] theorem setCap_cap (v : Bool) : (s.setCap v).cap = v := rfl
@[simp] theorem setCap_slots (v : Bool) : (s.setCap v).slots = s.slots := rfl
@[simp] theorem setCap_held (v : Bool) : (s.setCap v).held = s.held := rfl
@[simp] theorem setCap_moves (v : Bool) : (s.setCap v).moves = s.moves := rfl
@[simp] theorem setCap_out (v : Bool) : (s.setCap v).out = s.out := rfl
@[simp] theorem setCap_draws (v : Bool) : (s.setCap v).draws = s.draws := rfl

@[simp] theorem advance_cnt : (s.advance).cnt = s.cnt + 1 := rfl
@[simp] theorem advance_is : (s.advance).is = s.is := rfl
@[simp] theorem advance_opening : (s.advance).opening = s.opening := rfl
@[simp] theorem advance_tmr : (s.advance).tmr = s.tmr := rfl
@[simp] theorem advance_pend : (s.advance).pend = s.pend := rfl
@[simp] theorem advance_cap : (s.advance).cap = s.cap := rfl
@[simp] theorem advance_slots : (s.advance).slots = s.slots := rfl
@[simp] theorem advance_held : (s.advance).held = s.held := rfl
@[simp] theorem advance_moves : (s.advance).moves = s.moves := rfl
@[simp] theorem advance_out : (s.advance).out = s.out := rfl
@[simp] theorem advance_draws : (s.advance).draws = s.draws := rfl

@[simp] theorem addPend_cnt (o : Owner) (B : Report) : (s.addPend o B).cnt = s.cnt := rfl
@[simp] theorem addPend_is (o : Owner) (B : Report) : (s.addPend o B).is = s.is := rfl
@[simp] theorem addPend_opening (o : Owner) (B : Report) : (s.addPend o B).opening = s.opening := rfl
@[simp] theorem addPend_tmr (o : Owner) (B : Report) : (s.addPend o B).tmr = s.tmr := rfl
@[simp] theorem addPend_pend (o : Owner) (B : Report) : (s.addPend o B).pend = s.pend ++ [⟨s.nextTag, o, B⟩] := rfl
@[simp] theorem addPend_cap (o : Owner) (B : Report) : (s.addPend o B).cap = s.cap := rfl
@[simp] theorem addPend_slots (o : Owner) (B : Report) : (s.addPend o B).slots = s.slots := rfl
@[simp] theorem addPend_held (o : Owner) (B : Report) : (s.addPend o B).held = s.held := rfl
@[simp] theorem addPend_moves (o : Owner) (B : Report) : (s.addPend o B).moves = s.moves := rfl
@[simp] theorem addPend_out (o : Owner) (B : Report) : (s.addPend o B).out = s.out := rfl
@[simp] theorem addPend_draws (o : Owner) (B : Report) : (s.addPend o B).draws = s.draws + 1 := rfl

@[simp] theorem removePend_cnt (t : Tag) : (s.removePend t).cnt = s.cnt := rfl
@[simp] theorem removePend_is (t : Tag) : (s.removePend t).is = s.is := rfl
@[simp] theorem removePend_opening (t : Tag) : (s.removePend t).opening = s.opening := rfl
@[simp] theorem removePend_tmr (t : Tag) : (s.removePend t).tmr = s.tmr := rfl
@[simp] theorem removePend_pend (t : Tag) : (s.removePend t).pend = s.pend.filter (fun e => e.tag != t) := rfl
@[simp] theorem removePend_cap (t : Tag) : (s.removePend t).cap = s.cap := rfl
@[simp] theorem removePend_slots (t : Tag) : (s.removePend t).slots = s.slots := rfl
@[simp] theorem removePend_held (t : Tag) : (s.removePend t).held = s.held := rfl
@[simp] theorem removePend_moves (t : Tag) : (s.removePend t).moves = s.moves := rfl
@[simp] theorem removePend_out (t : Tag) : (s.removePend t).out = s.out := rfl
@[simp] theorem removePend_draws (t : Tag) : (s.removePend t).draws = s.draws := rfl

end Sys2Proof.Machine.State
end

