-- ==== Sys2Proof/Laws/Ops.lean ====
section
/-! SUPPORT. One spec lemma per shared operation; callers cite these and do not unfold the operation. -/

namespace Sys2Proof.Machine

theorem lt_tagAbove {t : Tag} {used : List Tag} (h : t ∈ used) : t < tagAbove used := by
  induction used with
  | nil => cases h
  | cons u used ih =>
    simp only [tagAbove, List.foldr_cons] at ih ⊢
    rcases List.mem_cons.1 h with rfl | h
    · exact Nat.lt_of_lt_of_le (Nat.lt_succ_self _) (Nat.le_max_left _ _)
    · exact Nat.lt_of_lt_of_le (ih h) (Nat.le_max_right _ _)

/-- The tag chosen is none of those in use (30_encoding.md R65). -/
theorem pickTag_fresh (used : List Tag) (draw : Tag) : pickTag used draw ∉ used := by
  unfold pickTag
  split
  · exact fun h => Nat.lt_irrefl _ (lt_tagAbove h)
  · assumption

/-- Every fresh tag is the result of some draw: the choice excludes none. -/
theorem pickTag_of_fresh {used : List Tag} {t : Tag} (h : t ∉ used) : pickTag used t = t := if_neg h

theorem nextTag_fresh (s : State) : s.nextTag ∉ usedTags s.pend := pickTag_fresh _ _

@[simp] theorem nextTag_advance (s : State) : s.advance.nextTag = s.nextTag := rfl
@[simp] theorem nextTag_setIs (s : State) (v : InitState) : (s.setIs v).nextTag = s.nextTag := rfl
@[simp] theorem nextTag_setOpening (s : State) (v : Bool) : (s.setOpening v).nextTag = s.nextTag := rfl
@[simp] theorem nextTag_setTmr (s : State) (v : Bool) : (s.setTmr v).nextTag = s.nextTag := rfl
@[simp] theorem nextTag_setHeld (s : State) (v : List Command) : (s.setHeld v).nextTag = s.nextTag := rfl

/-- The events one issue phase emits. -/
def issueEvents (owner : Owner) (t : Tag) (B : Report) : List OutEvent :=
  match owner with
  | .host => [.txSend t Config.reportId B, .sendAck t]
  | .init => [.txSend t Config.reportId B]

/-- Everything one issue phase does (42_sender.md R78). -/
theorem issue_eq (s : State) (o : Owner) (sub arg : Byte) :
    s.issue o sub arg =
      { s with
        cnt := s.cnt + 1
        pend := s.pend ++ [⟨s.nextTag, o, encodeReport s.cnt.toNat sub arg⟩]
        out := s.out ++ issueEvents o s.nextTag (encodeReport s.cnt.toNat sub arg)
        draws := s.draws + 1 } := by
  cases o <;>
    simp [State.issue, State.advance, State.addPend, State.emit, issueEvents, State.nextTag]

section
variable (s : State) (o : Owner) (sub arg : Byte)
@[simp] theorem issue_cnt : (s.issue o sub arg).cnt = s.cnt + 1 := by rw [issue_eq]
@[simp] theorem issue_is : (s.issue o sub arg).is = s.is := by rw [issue_eq]
@[simp] theorem issue_opening : (s.issue o sub arg).opening = s.opening := by rw [issue_eq]
@[simp] theorem issue_tmr : (s.issue o sub arg).tmr = s.tmr := by rw [issue_eq]
@[simp] theorem issue_cap : (s.issue o sub arg).cap = s.cap := by rw [issue_eq]
@[simp] theorem issue_slots : (s.issue o sub arg).slots = s.slots := by rw [issue_eq]
@[simp] theorem issue_held : (s.issue o sub arg).held = s.held := by rw [issue_eq]
@[simp] theorem issue_moves : (s.issue o sub arg).moves = s.moves := by rw [issue_eq]
@[simp] theorem issue_pend :
    (s.issue o sub arg).pend = s.pend ++ [⟨s.nextTag, o, encodeReport s.cnt.toNat sub arg⟩] := by rw [issue_eq]
@[simp] theorem issue_out :
    (s.issue o sub arg).out = s.out ++ issueEvents o s.nextTag (encodeReport s.cnt.toNat sub arg) := by
  rw [issue_eq]
end

@[simp] theorem seqValues_append (a b : List OutEvent) : seqValues (a ++ b) = seqValues a ++ seqValues b :=
  List.filterMap_append

/-- An issue phase shows the counter's value once (42_sender.md R85). -/
@[simp] theorem seqValues_issueEvents (o : Owner) (t : Tag) (c : Nibble) (sub arg : Byte) :
    seqValues (issueEvents o t (encodeReport c.toNat sub arg)) = [c.toNat] := by
  have h : c.toNat % 16 = c.toNat := Nat.mod_eq_of_lt c.isLt
  cases o <;> simp [issueEvents, seqValues, OutEvent.seqValue, h]

theorem isReport_encodeReport (n : Nat) (sub arg : Byte) : IsReport (encodeReport n sub arg) := ⟨n, sub, arg, rfl⟩

theorem admitsInit_iff (s : State) : s.admitsInit = true ↔ s.is = .notStarted ∧ s.opening = false := by
  simp [State.admitsInit]

/-- A further host send is held exactly when the parameter does not allow one more (42_sender.md R79). -/
theorem hostFull_eq_false_iff (s : State) : s.hostFull = false ↔ s.slots.allows (s.countPend .host + 1) := by
  unfold State.hostFull HostSlots.allows
  cases s.slots <;> simp

theorem quiescent_iff (s : State) :
    s.quiescent = true ↔ s.pend = [] ∧ s.opening = false ∧ s.tmr = false ∧ s.is.resting = true := by
  simp [State.quiescent, and_assoc]

theorem findPend_mem {s : State} {t : Tag} {e : PendEntry} (h : s.findPend t = some e) : e ∈ s.pend ∧ e.tag = t := by
  have h1 := List.mem_of_find?_eq_some h
  have h2 := List.find?_some h
  exact ⟨h1, by simpa using h2⟩

theorem findPend_none {s : State} {t : Tag} : s.findPend t = none ↔ t ∉ usedTags s.pend := by
  simp only [State.findPend, List.find?_eq_none, usedTags, List.mem_map, not_exists, not_and, beq_iff_eq]

/-- A list with distinct keys loses exactly one entry of the found key's kind. -/
theorem countP_filter_tag {l : List PendEntry} (hd : (usedTags l).Nodup) {e : PendEntry} (he : e ∈ l) (o : Owner) :
    (l.filter (fun x => x.tag != e.tag)).countP (fun x => x.owner == o) + (if e.owner = o then 1 else 0) =
      l.countP (fun x => x.owner == o) := by
  induction l with
  | nil => cases he
  | cons x l ih =>
    simp only [usedTags, List.map_cons, List.nodup_cons, List.mem_map, not_exists, not_and] at hd
    rcases List.mem_cons.1 he with rfl | he
    · have : l.filter (fun x => x.tag != e.tag) = l := by
        apply List.filter_eq_self.2
        intro y hy
        simpa using hd.1 y hy
      simp [this, List.countP_cons]
    · have hne : x.tag ≠ e.tag := fun h => hd.1 e he h.symm
      have := ih hd.2 he
      simp only [List.filter_cons, bne_iff_ne, ne_eq, hne, not_false_eq_true, if_true, List.countP_cons]
      omega

/-- Removing a pending entry lowers its owner's count by one and leaves the other's. -/
theorem countPend_removePend {s : State} (hd : (usedTags s.pend).Nodup) {t : Tag} {e : PendEntry}
    (h : s.findPend t = some e) (o : Owner) :
    (s.removePend t).countPend o + (if e.owner = o then 1 else 0) = s.countPend o := by
  obtain ⟨he, rfl⟩ := findPend_mem h
  exact countP_filter_tag hd he o

@[simp] theorem countPend_issue (s : State) (o o' : Owner) (sub arg : Byte) :
    (s.issue o sub arg).countPend o' = s.countPend o' + (if o = o' then 1 else 0) := by
  simp [State.countPend, List.countP_append, List.countP_singleton]

theorem usedTags_issue_nodup {s : State} (hd : (usedTags s.pend).Nodup) (o : Owner) (sub arg : Byte) :
    (usedTags (s.issue o sub arg).pend).Nodup := by
  simp only [usedTags, issue_pend, List.map_append, List.map_cons, List.map_nil]
  exact List.nodup_append.2 ⟨hd, by simp, by
    intro a ha b hb
    simp only [List.mem_singleton] at hb
    subst hb
    exact fun h => nextTag_fresh s (h ▸ ha)⟩

theorem usedTags_removePend_nodup {s : State} (hd : (usedTags s.pend).Nodup) (t : Tag) :
    (usedTags (s.removePend t).pend).Nodup :=
  hd.sublist (List.Sublist.map _ List.filter_sublist)

end Sys2Proof.Machine
end

