-- ==== Sys2Proof/Laws/PerInstr.lean ====
section
/-! SUPPORT. Statements about every instruction as syntax, one lemma per constructor. -/

namespace Sys2Proof.Laws.FormatLength

/-- An instruction's bytes have the length of its row's format: a report's 48 bytes, else a `REQ` word's 4
(30_encoding.md R48). -/
def Statement (i : Instr) : Prop :=
  (encode i).length =
    match i with
    | .rpt _ _ _ => 48
    | .rptImuOn _ => 48
    | .rptModeStd60 _ => 48
    | .next => 4
    | .encode _ _ _ => 4
    | .send _ _ => 4
    | .init => 4
    | .beginSession => 4
    | .imuOn => 4
    | .modeStd60 => 4

theorem next : Statement .next := rfl
theorem encode (n : Nat) (sub arg : Byte) : Statement (.encode n sub arg) := rfl
theorem send (sub arg : Byte) : Statement (.send sub arg) := rfl
theorem init : Statement .init := rfl
theorem beginSession : Statement .beginSession := rfl
theorem imuOn : Statement .imuOn := rfl
theorem modeStd60 : Statement .modeStd60 := rfl
theorem rpt (seq : Nibble) (sub arg : Byte) : Statement (.rpt seq sub arg) := rptBytes_length seq sub arg
theorem rptImuOn (seq : Nibble) : Statement (.rptImuOn seq) := rptBytes_length seq 0x40 0x01
theorem rptModeStd60 (seq : Nibble) : Statement (.rptModeStd60 seq) := rptBytes_length seq 0x03 0x30

end Sys2Proof.Laws.FormatLength
end

