-- ==== Sys2Proof/Laws/Step.lean ====
section
/-! SUPPORT. What a step can do, said once: each way the block goes on from one move, with its guard. -/

namespace Sys2Proof.Machine

@[simp] theorem step_nil {s : State} (h : s.moves = []) : step s = .next s := by simp [step, h, idle]

theorem step_cons {s : State} {m : Move} {rest : List Move} (h : s.moves = m :: rest) :
    step s = takeMove m { s with moves := rest } := by simp [step, h]

/-- The ways the block goes on from a move `m` in the state `s` (the move already taken off the list). -/
inductive MoveCase (s : State) : Move → State → Prop where
  | next {bytes} (hd : decode bytes = .ok .next) :
      MoveCase s (.request bytes) (s.advance.emit (.nextRsp s.cnt))
  | encode {bytes n sub arg} (hd : decode bytes = .ok (.encode n sub arg)) :
      MoveCase s (.request bytes) (s.emit (.encodeRsp (encodeReport n sub arg)))
  | sendIssued {bytes sub arg} (hd : decode bytes = .ok (.send sub arg)) (hf : s.hostFull = false) :
      MoveCase s (.request bytes) (s.issue .host sub arg)
  | sendHeld {bytes sub arg} (hd : decode bytes = .ok (.send sub arg)) (hf : s.hostFull = true) :
      MoveCase s (.request bytes) (s.setHeld (s.held ++ [⟨sub, arg⟩]))
  | init {bytes} (hd : decode bytes = .ok .init) (ha : s.is = .notStarted) (ho : s.opening = false) :
      MoveCase s (.request bytes) s.startSequence
  | beginOpen {bytes} (hd : decode bytes = .ok .beginSession) (ha : s.is = .notStarted) (ho : s.opening = false)
      (hc : s.cap = true) : MoveCase s (.request bytes) ((s.setOpening true).emit .txOpen)
  | beginFail {bytes} (hd : decode bytes = .ok .beginSession) (ha : s.is = .notStarted) (ho : s.opening = false)
      (hc : s.cap = false) : MoveCase s (.request bytes) (s.raise .capability)
  | offerStill {k c} (hk : s.held[k]? = some c) (hf : s.hostFull = true) : MoveCase s (.offerHeld k) s
  | offerIssued {k c} (hk : s.held[k]? = some c) (hf : s.hostFull = false) :
      MoveCase s (.offerHeld k) ((s.setHeld (s.held.eraseIdx k)).issue .host c.sub c.arg)
  | openOk (ho : s.opening = true) : MoveCase s (.openDone true) (s.setOpening false).startSequence
  | openFail (ho : s.opening = true) : MoveCase s (.openDone false) (s.raise .openFailed)
  | hostDone {t e} (he : s.findPend t = some e) (ho : e.owner = .host) :
      MoveCase s (.sendDone t true) ((s.removePend t).emit (.sendRsp t .ok))
  | hostFail {t e} (he : s.findPend t = some e) (ho : e.owner = .host) :
      MoveCase s (.sendDone t false) ((s.removePend t).raise (.hostSend t))
  | step1Done {t e} (he : s.findPend t = some e) (ho : e.owner = .init) (hi : s.is = .sensorEnabling) :
      MoveCase s (.sendDone t true) (((s.removePend t).setIs .settling).setTmr true)
  | step1Fail {t e} (he : s.findPend t = some e) (ho : e.owner = .init) (hi : s.is = .sensorEnabling) :
      MoveCase s (.sendDone t false) ((s.removePend t).raise .step1)
  | step3Done {t e} (he : s.findPend t = some e) (ho : e.owner = .init) (hi : s.is = .modeSwitching) :
      MoveCase s (.sendDone t true) (((s.removePend t).setIs .done).emit (.initRsp .ok))
  | step3Fail {t e} (he : s.findPend t = some e) (ho : e.owner = .init) (hi : s.is = .modeSwitching) :
      MoveCase s (.sendDone t false) ((s.removePend t).raise .step3)
  | timer (ht : s.tmr = true) : MoveCase s .timerExpire
      (((s.setTmr false).setIs .modeSwitching).issue .init Config.cmdModeStd60.sub Config.cmdModeStd60.arg)
  | setCap {b} : MoveCase s (.setCap b) (s.setCap b)
  | inbound {p} : MoveCase s (.inbound p) s
  | newSession (hq : s.quiescent = true) (hh : s.held = []) : MoveCase s .newSession s.newSession

theorem takeRequest_next {bytes : List Byte} {s s' : State} (h : takeRequest bytes s = .next s') :
    MoveCase s (.request bytes) s' := by
  unfold takeRequest at h
  split at h
  · rename_i i hd
    rcases decode_ok hd with ⟨op, n, a, b, -, hr⟩ | ⟨q, a, b, -, rfl⟩
    · rcases decodeReq_ok hr with ⟨-, rfl⟩ | ⟨-, rfl⟩ | ⟨-, rfl⟩ | ⟨-, rfl⟩ | ⟨-, rfl⟩
      · cases h; exact .next hd
      · cases h; exact .encode hd
      · cases hf : s.hostFull <;> simp [exec, execSend, State.hostSend, hf] at h <;> subst h
        · exact .sendIssued hd hf
        · exact .sendHeld hd hf
      · simp only [exec, execInit] at h
        split at h
        · rename_i ha
          obtain ⟨h1, h2⟩ := (admitsInit_iff s).1 ha
          cases h; exact .init hd h1 h2
        · cases h
      · simp only [exec, execBegin] at h
        split at h
        · rename_i ha
          obtain ⟨h1, h2⟩ := (admitsInit_iff s).1 ha
          split at h
          · rename_i hc; cases h; exact .beginOpen hd h1 h2 hc
          · rename_i hc; cases h; exact .beginFail hd h1 h2 (by simpa using hc)
        · cases h
    · rcases canon_rpt_cases q a b with hc | hc | hc <;> rw [hc] at h <;> cases h
  · cases h

theorem takeOfferHeld_next {k : Nat} {s s' : State} (h : takeOfferHeld k s = .next s') :
    MoveCase s (.offerHeld k) s' := by
  unfold takeOfferHeld at h
  split at h
  · cases h
  · rename_i c hk
    split at h
    · rename_i hf; cases h; exact .offerStill hk hf
    · rename_i hf; cases h; exact .offerIssued hk (by simpa using hf)

theorem takeOpenDone_next {ok : Bool} {s s' : State} (h : takeOpenDone ok s = .next s') :
    MoveCase s (.openDone ok) s' := by
  unfold takeOpenDone at h
  split at h
  · rename_i ho
    cases ok <;> cases h
    · exact .openFail ho
    · exact .openOk ho
  · cases h

theorem takeSendDone_next {t : Tag} {ok : Bool} {s s' : State} (h : takeSendDone t ok s = .next s') :
    MoveCase s (.sendDone t ok) s' := by
  unfold takeSendDone at h
  split at h
  · cases h
  · rename_i e he
    split at h
    · rename_i ho
      cases ok <;> cases h
      · exact .hostFail he ho
      · exact .hostDone he ho
    · rename_i ho
      unfold completeInitSend at h
      split at h <;> rename_i hi <;> try (cases h; done)
      · cases ok <;> cases h
        · exact .step1Fail he ho hi
        · exact .step1Done he ho hi
      · cases ok <;> cases h
        · exact .step3Fail he ho hi
        · exact .step3Done he ho hi

theorem takeTimerExpire_next {s s' : State} (h : takeTimerExpire s = .next s') : MoveCase s .timerExpire s' := by
  unfold takeTimerExpire at h
  split at h
  · rename_i ht; cases h; exact .timer ht
  · cases h

theorem takeNewSession_next {s s' : State} (h : takeNewSession s = .next s') : MoveCase s .newSession s' := by
  unfold takeNewSession at h
  split at h
  · rename_i hq
    obtain ⟨h1, h2⟩ : s.quiescent = true ∧ s.held = [] := by simpa using hq
    cases h; exact .newSession h1 h2
  · cases h

/-- `SEND_DONE` of a host's send answers the host. -/
theorem takeSendDone_host {s : State} {t : Tag} {e : PendEntry} (he : s.findPend t = some e) (ho : e.owner = .host)
    (ok : Bool) : takeSendDone t ok s = .next (completeHostSend t ok (s.removePend t)) := by
  simp only [takeSendDone, he, ho]

/-- `SEND_DONE` of the first Command's send. -/
theorem takeSendDone_step1 {s : State} {t : Tag} {e : PendEntry} (he : s.findPend t = some e) (ho : e.owner = .init)
    (hi : s.is = .sensorEnabling) (ok : Bool) :
    takeSendDone t ok s =
      .next (if ok then ((s.removePend t).setIs .settling).setTmr true else (s.removePend t).raise .step1) := by
  simp only [takeSendDone, he, ho, completeInitSend, State.removePend_is, hi]

/-- `SEND_DONE` of the second Command's send. -/
theorem takeSendDone_step3 {s : State} {t : Tag} {e : PendEntry} (he : s.findPend t = some e) (ho : e.owner = .init)
    (hi : s.is = .modeSwitching) (ok : Bool) :
    takeSendDone t ok s =
      .next (if ok then ((s.removePend t).setIs .done).emit (.initRsp .ok) else (s.removePend t).raise .step3) := by
  simp only [takeSendDone, he, ho, completeInitSend, State.removePend_is, hi]

/-- The inversion lemma: a step that goes on is the idle step, or one of the listed ways on from its first move. -/
theorem step_next_cases {s s' : State} (h : step s = .next s') :
    (s.moves = [] ∧ s' = s) ∨
    ∃ m rest, s.moves = m :: rest ∧ MoveCase { s with moves := rest } m s' := by
  rcases hm : s.moves with _ | ⟨m, rest⟩
  · rw [step_nil hm] at h; cases h; exact .inl ⟨rfl, rfl⟩
  · rw [step_cons hm] at h
    refine .inr ⟨m, rest, rfl, ?_⟩
    cases m with
    | request bytes => exact takeRequest_next h
    | offerHeld k => exact takeOfferHeld_next h
    | openDone ok => exact takeOpenDone_next h
    | sendDone t ok => exact takeSendDone_next h
    | timerExpire => exact takeTimerExpire_next h
    | setCap b => cases h; exact .setCap
    | inbound p => cases h; exact .inbound
    | newSession => exact takeNewSession_next h

end Sys2Proof.Machine
end

