-- ==== Sys2Proof/Laws/Run.lean ====
section
/-! SUPPORT. Running the machine: one step at a time. -/

namespace Sys2Proof.Machine

/-- A machine whose step goes on runs on from the next state. -/
theorem run_of_step {M : Host.Core} {s s' : M.State} (h : M.step s = .next s') (k : Nat) :
    M.run (k + 1) s = M.run k s' := by
  rw [Host.Core.run, h]

/-- The same of this machine, in its own names. -/
theorem core_run_succ {s s' : State} (h : step s = .next s') (k : Nat) :
    Host.Core.run Sys2Proof.core (k + 1) s = Host.Core.run Sys2Proof.core k s' :=
  run_of_step (M := Sys2Proof.core) h k

@[simp] theorem core_run_zero (s : State) : Host.Core.run Sys2Proof.core 0 s = .next s := rfl

@[simp] theorem move_of_next {s s' : State} (h : step s = .next s') : s.move = s' := by simp [State.move, h]

@[simp] theorem move_of_fault {s : State} {r : Fault} (h : step s = .fault r) : s.move = s := by simp [State.move, h]

@[simp] theorem move_of_refused {s : State} {r : Refusal} (h : step s = .refused r) : s.move = s.passOver := by
  simp [State.move, h]

theorem passOver_request {s : State} {bytes : List Byte} {rest : List Move} (h : s.moves = .request bytes :: rest) :
    s.passOver = { s with moves := rest } := by simp [State.passOver, h, Move.isRequest]

/-- No request makes the machine fault. -/
theorem request_never_faults {s : State} {bytes : List Byte} {rest : List Move} (h : s.moves = .request bytes :: rest)
    (r : Fault) : step s ≠ .fault r := by
  rw [step_cons h]
  simp only [takeMove, takeRequest]
  cases decode bytes with
  | error e => exact (nomatch ·)
  | ok i => cases i <;> simp only [exec, execInit, execBegin] <;> (repeat' split) <;> exact (nomatch ·)

/-- A request is over in one move of a run, whether the block takes it, holds it or refuses it (70_reset_and_hazards.md
R128). -/
theorem move_request_moves {s : State} {bytes : List Byte} {rest : List Move} (h : s.moves = .request bytes :: rest) :
    s.move.moves = rest := by
  cases hs : step s with
  | next s' =>
    rw [move_of_next hs]
    obtain ⟨hm, -⟩ | ⟨m, rest', hm, hc⟩ := step_next_cases hs
    · rw [hm] at h; cases h
    · rw [h] at hm
      obtain ⟨rfl, rfl⟩ := List.cons.inj hm
      cases hc <;> simp [State.startSequence, State.raise]
  | fault r => exact absurd hs (request_never_faults h r)
  | refused r => rw [move_of_refused hs, passOver_request h]

end Sys2Proof.Machine
end

