-- ==== Sys2Proof/Tests/Slice0.lean ====
section
/-! SUPPORT. The model's own tests: words written out from 30_encoding.md, one step per case of 95_test_vectors.md, and for
every statement with hypotheses a concrete state that meets them. -/

namespace Sys2Proof.Tests

open Sys2Proof.Machine

/-! States: reset with the moves to come; a host send pending; the sequence at each stage; an open pending. -/

def fresh (ms : List Move) : State := { State.reset with moves := ms }

def opened (ms : List Move) : State := { fresh ms with opening := true }

def hostWaits (ms : List Move) : State :=
  { fresh ms with
    cnt := 1
    pend := [⟨7, .host, encodeReport 0 0x40 0x01⟩]
    out := [.txSend 7 0x01 (encodeReport 0 0x40 0x01), .sendAck 7] }

def sensor (ms : List Move) : State :=
  { fresh ms with
    cnt := 1
    is := .sensorEnabling
    pend := [⟨3, .init, encodeReport 0 0x40 0x01⟩]
    out := [.txSend 3 0x01 (encodeReport 0 0x40 0x01)] }

def settling (ms : List Move) : State :=
  { fresh ms with
    cnt := 1
    is := .settling
    tmr := true
    out := [.txSend 3 0x01 (encodeReport 0 0x40 0x01)] }

def switching (ms : List Move) : State :=
  { fresh ms with
    cnt := 2
    is := .modeSwitching
    pend := [⟨4, .init, encodeReport 1 0x03 0x30⟩]
    out := [.txSend 3 0x01 (encodeReport 0 0x40 0x01), .txSend 4 0x01 (encodeReport 1 0x03 0x30)] }

/-! Well-formedness: the one check, and the boundary below it. -/

theorem test_encode_operand_256_is_ill_formed : (Instr.encode 256 0x00 0x00).wf = false := by decide

theorem test_encode_operand_255_is_well_formed : (Instr.encode 255 0x01 0x02).wf = true := by decide

/-! Decoding: words from R52 and R49, bit by bit. -/

theorem test_decode_next : decodeTableWord 32 0b00000000_10101011_11001101_11101111 = some .next := by decide

theorem test_decode_encode :
    decodeTableWord 32 0b00000001_00010001_00000011_00110000 = some (.encode 17 0x03 0x30) := by decide

theorem test_decode_send : decodeTableWord 32 0b00000010_11111111_10101010_01010101 = some (.send 0xAA 0x55) := by decide

theorem test_decode_init : decodeTableWord 32 0b00000011_00000000_00000000_00000001 = some .init := by decide

theorem test_decode_begin : decodeTableWord 32 0b00000100_00000000_00000000_00000000 = some .beginSession := by decide

/-- R63: "a decoder reads both as `SEND`". -/
theorem test_decode_pseudo_ops_as_send :
    decodeTableWord 32 0b00000010_00000000_01000000_00000001 = some (.send 0x40 0x01) ∧
    decodeTableWord 32 0b00000010_00000000_00000011_00110000 = some (.send 0x03 0x30) := by decide

/-- 95_test_vectors.md 2.2, last row, as the 384-bit number of R11. -/
theorem test_decode_report :
    decodeTableWord 384
      0x050001000000010000010100000000000000000000000000000000000000000000000000000000000000000000000000 =
      some (.rpt 5 0x01 0x01) := by decide

/-- The report patterns of R57 with `seq` 0 and 1 (Scenarios A and B). -/
theorem test_decode_command_reports :
    decodeTableWord 384
      0x000001000000010000400100000000000000000000000000000000000000000000000000000000000000000000000000 =
      some (.rptImuOn 0) ∧
    decodeTableWord 384
      0x010001000000010000033000000000000000000000000000000000000000000000000000000000000000000000000000 =
      some (.rptModeStd60 1) := by decide

theorem test_decode_reserved_op : decode [0x05, 0x00, 0x00, 0x00] = .error (.reservedOp 0x05) := rfl

/-- 95_test_vectors.md 4: no report has `B[0] ≥ 0x10`. -/
theorem test_decode_report_high_nibble : decode (0x10 :: (rptBytes 0 0x00 0x00).tail) = .error .notAReport := rfl

theorem test_decode_three_bytes : decode [0x00, 0x00, 0x00] = .error (.badLength 3) := rfl

/-! One step per case of 95_test_vectors.md. -/

/-- 2.1: `CNT` = 15 returns 15 and wraps to 0. -/
theorem test_next_wraps : step { fresh [.request [0x00, 0x00, 0x00, 0x00]] with cnt := 15 } =
    .next { fresh [] with cnt := 0, out := [.nextRsp 15] } := rfl

/-- 2.2: `n` = 255 gives byte 0 = 0x0F. -/
theorem test_encode_255 :
    (encodeReport 255 0x01 0x02).toList = [0x0F, 0, 1, 0, 0, 0, 1, 0, 0, 0x01, 0x02] ++ List.replicate 37 0 := by
  decide

/-- 2.2: values equal to their own offsets, and `CNT` is the same before and after. -/
theorem test_encode_step : ∃ B : Report,
    B.toList = [0x09, 0, 1, 0, 0, 0, 1, 0, 0, 0x09, 0x0A] ++ List.replicate 37 0 ∧
    step (fresh [.request [0x01, 0x09, 0x09, 0x0A]]) = .next { fresh [] with out := [.encodeRsp B] } :=
  ⟨encodeReport 9 0x09 0x0A, by decide, rfl⟩

/-- 2.3: `CNT` = 15, `SEND 0xAA, 0x55` carries byte 0 = 0x0F and wraps the counter. -/
theorem test_send_wraps : ∃ (t : Tag) (B : Report),
    B.toList = [0x0F, 0, 1, 0, 0, 0, 1, 0, 0, 0xAA, 0x55] ++ List.replicate 37 0 ∧
    step { fresh [.request [0x02, 0x00, 0xAA, 0x55]] with cnt := 15 } = .next { fresh [] with
      cnt := 0
      pend := [⟨t, .host, B⟩]
      out := [.txSend t 0x01 B, .sendAck t]
      draws := 1 } :=
  ⟨Config.freeTag 0, encodeReport 15 0xAA 0x55, by decide, rfl⟩

/-- 2.3: with one slot a second `SEND` is held and nothing of the block changes. -/
theorem test_send_held : step (hostWaits [.request [0x02, 0x00, 0x01, 0x01]]) =
    .next { hostWaits [] with held := [⟨0x01, 0x01⟩] } := rfl

/-- P6: with two slots the second `SEND` is issued at once, with the next nibble. -/
theorem test_send_two_slots :
    step { hostWaits [.request [0x02, 0x00, 0xB0, 0x02]] with slots := .bounded 1 } =
      .next ({ hostWaits [] with slots := .bounded 1 }.issue .host 0xB0 0x02) := rfl

/-- P6: the held `SEND` is accepted once a slot is free. -/
theorem test_held_send_accepted :
    step { fresh [.offerHeld 0] with held := [⟨0xC0, 0x03⟩] } = .next ((fresh []).issue .host 0xC0 0x03) := rfl

/-- 2.3: completion of a host send; `CNT` keeps its advance in both. -/
theorem test_send_done : step (hostWaits [.sendDone 7 true]) = .next { hostWaits [] with
      pend := []
      out := (hostWaits []).out ++ [.sendRsp 7 .ok] } ∧
    step (hostWaits [.sendDone 7 false]) = .next { hostWaits [] with
      pend := []
      out := (hostWaits []).out ++ [.sendRsp 7 (.fail .sendFailure .hostSend)] } := ⟨rfl, rfl⟩

theorem test_pseudo_ops : exec .imuOn (fresh []) = .next ((fresh []).issue .host 0x40 0x01) ∧
    exec .modeStd60 (fresh []) = .next ((fresh []).issue .host 0x03 0x30) := ⟨rfl, rfl⟩

/-- 2.4: `INIT` with `CNT` = 5 carries nibble 5. -/
theorem test_init : ∃ (t : Tag) (B : Report),
    B.toList = [0x05, 0, 1, 0, 0, 0, 1, 0, 0, 0x40, 0x01] ++ List.replicate 37 0 ∧
    step { fresh [.request [0x03, 0x00, 0x00, 0x00]] with cnt := 5 } = .next { fresh [] with
      cnt := 6
      is := .sensorEnabling
      pend := [⟨t, .init, B⟩]
      out := [.txSend t 0x01 B]
      draws := 1 } :=
  ⟨Config.freeTag 0, encodeReport 5 0x40 0x01, by decide, rfl⟩

/-- 2.4: refused while the delay runs, and while an open is pending. -/
theorem test_init_refused : step (settling [.request [0x03, 0x00, 0x00, 0x00]]) = .refused .initNotAdmitted ∧
    step (opened [.request [0x04, 0x00, 0x00, 0x00]]) = .refused .beginNotAdmitted := ⟨rfl, rfl⟩

/-- 2.4: `BEGIN` with and without the capability. -/
theorem test_begin : step (fresh [.request [0x04, 0x00, 0x00, 0x00]]) =
      .next { fresh [] with opening := true, out := [.txOpen] } ∧
    step { fresh [.request [0x04, 0x00, 0x00, 0x00]] with cap := false } =
      .next { fresh [] with cap := false, out := [.beginRspFail .capabilityUnavailable .beginRequest] } := ⟨rfl, rfl⟩

/-- 2.4: the outcomes of the open. -/
theorem test_open_done : step (opened [.openDone false]) =
      .next { fresh [] with out := [.beginRspFail .openFailure .transportOpen] } ∧
    step (opened [.openDone true]) = .next (fresh []).startSequence := ⟨rfl, rfl⟩

/-- 2.4: the first send's outcomes. -/
theorem test_step1 : step (sensor [.sendDone 3 true]) =
      .next { sensor [] with is := .settling, tmr := true, pend := [] } ∧
    step (sensor [.sendDone 3 false]) = .next { sensor [] with
      is := .failed
      pend := []
      out := (sensor []).out ++ [.initRsp (.fail .sendFailure .step1)] } := ⟨rfl, rfl⟩

/-- 2.4: the timer issues the second Command. -/
theorem test_timer : ∃ (t : Tag) (B : Report),
    B.toList = [0x01, 0, 1, 0, 0, 0, 1, 0, 0, 0x03, 0x30] ++ List.replicate 37 0 ∧
    step (settling [.timerExpire]) = .next { settling [] with
      cnt := 2
      is := .modeSwitching
      tmr := false
      pend := [⟨t, .init, B⟩]
      out := (settling []).out ++ [.txSend t 0x01 B]
      draws := 1 } :=
  ⟨Config.freeTag 0, encodeReport 1 0x03 0x30, by decide, rfl⟩

/-- 2.4: the second send's outcomes. -/
theorem test_step3 : step (switching [.sendDone 4 true]) = .next { switching [] with
      is := .done
      pend := []
      out := (switching []).out ++ [.initRsp .ok] } ∧
    step (switching [.sendDone 4 false]) = .next { switching [] with
      is := .failed
      pend := []
      out := (switching []).out ++ [.initRsp (.fail .sendFailure .step3)] } := ⟨rfl, rfl⟩

theorem test_report_row_refused : exec (.rpt 0 0x40 0x01) (fresh []) = .refused .outputFormatOnly := rfl

/-- The host's question: a table word placed after reset is what the next step runs. -/
theorem test_placed_word : step (State.reset.withFetchWord 32 0x04000000) = exec .beginSession State.reset := rfl

/-- The tag drawn is used where it is fresh, and replaced where it is not. -/
theorem test_tags : pickTag [7, 3] 5 = 5 ∧ pickTag [7, 3] 3 = 8 := by decide

/-- P9: a session's steps leave another's counter at 0. -/
theorem test_sessions : (Fleet.run [fresh [.request [0, 0, 0, 0]], fresh []] [0, 1, 0]).map (·.cnt) = [1, 0] := rfl

/-- P2: the first send fails, the second `INIT` is refused and passed over, and the run has ended. -/
theorem test_run_ends_after_a_refused_init : ∃ s',
    State.move (State.move (sensor [.sendDone 3 false, .request [0x03, 0x00, 0x00, 0x00]])) = s' ∧ s'.runEnded ∧
    s'.cnt = 1 ∧ s'.is = .failed ∧
    s'.out = (sensor []).out ++ [.initRsp (.fail .sendFailure .step1)] := ⟨_, rfl, ⟨rfl, rfl, rfl⟩, rfl, rfl, rfl⟩

/-- R125: a `RESET` in mid-run is no request of the run and is not passed over. -/
theorem test_reset_in_mid_run_stays : State.move (hostWaits [.newSession]) = hostWaits [.newSession] := rfl

/-! Witnesses: each statement's hypotheses, met together. A name says the statement. -/

theorem witness_RequestWordDecodesByItsTableRow :
    (∀ row ∈ reqTable, (0x05000000 : BitVec 32) &&& row.mask ≠ row.pattern) ∧
    (∀ row ∈ reqTable, (0xFF000000 : BitVec 32) &&& row.mask ≠ row.pattern) ∧
    decode (reqBytes 0x01FF0102) = .ok (.encode 255 0x01 0x02) ∧
    decode (reqBytes 0x0200FFFF) = .ok (.send 0xFF 0xFF) := ⟨by decide, by decide, rfl, rfl⟩

theorem witness_ReservedOpRefusedAndUnusedFieldsIgnored :
    5 ≤ (0x05 : Byte).toNat ∧ 5 ≤ (0xFF : Byte).toNat ∧
    (fresh [.request [0x05, 0, 0, 0]]).moves = .request [0x05, 0, 0, 0] :: [] := ⟨by decide, by decide, rfl⟩

theorem witness_ConsecutiveNextsCountModuloSixteen :
    (fresh [.request (encode .next), .request (encode .next), .timerExpire]).moves =
      List.replicate 2 (.request (encode .next)) ++ [.timerExpire] := rfl

theorem witness_CounterOnlyAdvancesAndNeverRollsBack :
    (∃ s', step (fresh [.request [0, 0, 0, 0]]) = .next s' ∧
      (fresh [.request [0, 0, 0, 0]]).moves.head? ≠ some .newSession) ∧
    (∃ s', step (hostWaits [.sendDone 7 false]) = .next s' ∧
      (hostWaits [.sendDone 7 false]).moves.head? = some (.sendDone 7 false)) ∧
    (∃ s', step (opened [.openDone false]) = .next s' ∧
      (opened [.openDone false]).moves.head? = some (.openDone false)) :=
  ⟨⟨_, rfl, by decide⟩, ⟨_, rfl, rfl⟩, ⟨_, rfl, rfl⟩⟩

theorem witness_SendPerformsTheIssuePhase :
    (fresh []).slots.allows ((fresh []).countPend .host + 1) ∧
    HostSlots.unbounded.allows ((hostWaits []).countPend .host + 1) := ⟨Nat.le_refl _, trivial⟩

theorem witness_PseudoOpsIssueTheirCommands : (fresh []).slots.allows ((fresh []).countPend .host + 1) := Nat.le_refl _

theorem witness_SendIsHeldWhileHostSlotsAreFull :
    ¬ (hostWaits []).slots.allows ((hostWaits []).countPend .host + 1) := Nat.not_succ_le_self _

theorem witness_HeldSendIsIssuedOnceASlotIsFree :
    ({ fresh [.offerHeld 0] with held := [⟨1, 2⟩] } : State).held[0]? = some ⟨1, 2⟩ ∧
    (fresh []).slots.allows ((fresh []).countPend .host + 1) ∧
    ({ hostWaits [.offerHeld 0] with held := [⟨1, 2⟩] } : State).held[0]? = some ⟨1, 2⟩ ∧
    ¬ (hostWaits []).slots.allows ((hostWaits []).countPend .host + 1) :=
  ⟨rfl, Nat.le_refl _, rfl, Nat.not_succ_le_self _⟩

theorem witness_SendDoneOkAnswersTheOwner :
    (∃ e, (hostWaits [.sendDone 7 true]).findPend 7 = some e ∧ e.owner = .host) ∧
    (∃ e, (sensor [.sendDone 3 true]).findPend 3 = some e ∧ e.owner = .init ∧ (sensor []).is = .sensorEnabling) ∧
    (∃ e, (switching [.sendDone 4 true]).findPend 4 = some e ∧ e.owner = .init ∧
      (switching []).is = .modeSwitching) :=
  ⟨⟨_, rfl, rfl⟩, ⟨_, rfl, rfl, rfl⟩, ⟨_, rfl, rfl, rfl⟩⟩

theorem witness_SendDoneFailRaisesSendFailure :
    (∃ e, (hostWaits [.sendDone 7 false]).findPend 7 = some e ∧ e.owner = .host) ∧
    (∃ e, (sensor [.sendDone 3 false]).findPend 3 = some e ∧ e.owner = .init ∧ (sensor []).is = .sensorEnabling) ∧
    (∃ e, (switching [.sendDone 4 false]).findPend 4 = some e ∧ e.owner = .init ∧
      (switching []).is = .modeSwitching) :=
  ⟨⟨_, rfl, rfl⟩, ⟨_, rfl, rfl, rfl⟩, ⟨_, rfl, rfl, rfl⟩⟩

theorem witness_EveryTransmissionIsAReportWithIdentifierOne :
    (fresh [.request [0x02, 0x00, 0x01, 0x02]]).moves.head? ≠ some .newSession ∧ ∃ s' evs t B,
      step (fresh [.request [0x02, 0x00, 0x01, 0x02]]) = .next s' ∧ s'.out = (fresh []).out ++ evs ∧
        .txSend t 0x01 B ∈ evs :=
  ⟨by decide, (fresh []).issue .host 0x01 0x02, _, (fresh []).nextTag, encodeReport 0 0x01 0x02, rfl,
    issue_out _ _ _ _, List.mem_cons_self⟩

theorem witness_InitIssuesTheSensorCommand : ((fresh []).is = .notStarted ∧ (fresh []).opening = false) ∧
    ((settling []).is ≠ .notStarted ∨ (settling []).opening = true) ∧
    ((opened []).is ≠ .notStarted ∨ (opened []).opening = true) := by decide

theorem witness_InitAndBeginAreRefusedOutsideTheGuard :
    ¬ ((settling []).is = .notStarted ∧ (settling []).opening = false) ∧
    ¬ ((opened []).is = .notStarted ∧ (opened []).opening = false) := by decide

theorem witness_BeginOpensOrReportsMissingCapability :
    ((fresh []).is = .notStarted ∧ (fresh []).opening = false ∧ (fresh []).cap = true) ∧
    (({ fresh [] with cap := false } : State).is = .notStarted ∧ ({ fresh [] with cap := false } : State).cap = false) ∧
    ((sensor []).is ≠ .notStarted ∨ (sensor []).opening = true) := by decide

theorem witness_OpenDoneReportsOrStartsTheSequence :
    (opened [.openDone true]).opening = true ∧ (opened [.openDone true]).moves = .openDone true :: [] ∧
    (opened [.openDone false]).moves = .openDone false :: [] := ⟨rfl, rfl, rfl⟩

theorem witness_TimerExpireIssuesTheModeCommand :
    (settling [.timerExpire]).tmr = true ∧ (settling [.timerExpire]).moves = .timerExpire :: [] := ⟨rfl, rfl⟩

/-- The delay running: a state of the invariant other than reset's. -/
theorem settling_inv (ms : List Move) : (settling ms).Inv :=
  ⟨List.nodup_nil, ⟨fun _ => rfl, fun _ => rfl⟩, rfl, (nomatch ·), Nat.zero_le _, fun _ h => (nomatch h)⟩

/-- A host send pending, nothing started. -/
theorem hostWaits_inv (ms : List Move) : (hostWaits ms).Inv :=
  ⟨List.nodup_singleton _, ⟨(nomatch ·), (nomatch ·)⟩, rfl, (nomatch ·), Nat.le_refl _, fun e h => by
    have h : e = ⟨7, .host, encodeReport 0 0x40 0x01⟩ := List.mem_singleton.1 h
    rw [h]; exact isReport_encodeReport _ _ _⟩

theorem witness_InitStateIsMonotone : (settling [.timerExpire]).Inv ∧
    (∃ s', step (settling [.timerExpire]) = .next s') ∧ (settling [.timerExpire]).moves.head? ≠ some .newSession :=
  ⟨settling_inv _, ⟨_, rfl⟩, by decide⟩

theorem witness_SequenceSendsComeInOrder : (settling [.timerExpire]).Inv ∧ ∃ s' e,
    step (settling [.timerExpire]) = .next s' ∧ e ∈ s'.pend ∧ e ∉ (settling [.timerExpire]).pend ∧ e.owner = .init :=
  ⟨settling_inv _, _, ⟨(settling []).nextTag, .init, encodeReport 1 0x03 0x30⟩, rfl, List.mem_singleton.2 rfl,
    (nomatch ·), rfl⟩

theorem witness_HealthyBeginReachesDone :
    (fresh []).is = .notStarted ∧ (fresh []).opening = false ∧ (fresh []).cap = true := by decide

theorem witness_FailureMakesOnlyTheListedWrites : ∃ s',
    step (hostWaits [.sendDone 7 false]) = .next s' ∧
    s'.out = (hostWaits []).out ++ [.sendRsp 7 (.fail .sendFailure .hostSend)] ∧
    OutEvent.isFailure (.sendRsp 7 (.fail .sendFailure .hostSend)) = true := ⟨_, rfl, rfl, rfl⟩

theorem witness_UnawaitedCompletionsFault :
    ((fresh [.openDone true]).opening = false ∧ (fresh [.openDone true]).moves = .openDone true :: []) ∧
    (8 ∉ usedTags (hostWaits [.sendDone 8 true]).pend) ∧
    ((fresh [.timerExpire]).tmr = false ∧ (fresh [.timerExpire]).moves = .timerExpire :: []) :=
  ⟨⟨rfl, rfl⟩, by decide, ⟨rfl, rfl⟩⟩

theorem witness_InboundReportTouchesNoState : (fresh [.inbound [0x30]]).moves = .inbound [0x30] :: [] := rfl

theorem witness_SuspendedUntilItsOwnAnswer :
    (∃ s', step (hostWaits [.request [0, 0, 0, 0]]) = .next s') ∧ (hostWaits []).pend ≠ [] ∧
    (∀ ok, (hostWaits [.request [0, 0, 0, 0]]).moves.head? ≠ some (.sendDone 7 ok)) ∧
    (∃ s', step (opened [.request [0, 0, 0, 0]]) = .next s') ∧ (opened []).opening = true ∧
    (∃ s', step (settling [.request [0, 0, 0, 0]]) = .next s') ∧ (settling []).tmr = true :=
  ⟨⟨_, rfl⟩, by decide, by decide, ⟨_, rfl⟩, rfl, ⟨_, rfl⟩, rfl⟩

theorem witness_CapIsReadOnlyByBegin : ∀ bytes rest,
    (fresh [.request (encode .init)]).moves = .request bytes :: rest → decode bytes ≠ .ok .beginSession := by
  intro bytes rest h
  obtain ⟨h, -⟩ := List.cons.inj h
  cases h
  exact (nomatch ·)

theorem witness_EnvironmentSetsCap : (fresh [.setCap false]).moves = .setCap false :: [] := rfl

theorem witness_StepGoesOnExactlyWhereTheGuardHolds : (hostWaits [.sendDone 7 true]).Inv := hostWaits_inv _

theorem witness_QuiescentStateEnablesNoEvent :
    (fresh [.timerExpire]).quiescent = true ∧ (fresh [.timerExpire]).moves = .timerExpire :: [] := ⟨rfl, rfl⟩

theorem witness_StepRunsTheDecodedInstruction :
    (fresh [.request [0x02, 0x00, 0x40, 0x01]]).moves = .request [0x02, 0x00, 0x40, 0x01] :: [] ∧
    decode [0x02, 0x00, 0x40, 0x01] = .ok (.send 0x40 0x01) := ⟨rfl, rfl⟩

theorem witness_PlacedWordIsRunNext : decodeTableWord 32 0x03000000 = some .init := by decide

theorem witness_BlockWaitsWhileNobodyMoves : State.reset.moves = [] := rfl

theorem witness_RunPassesRefusedRequestsOver :
    ((settling [.request [0x03, 0, 0, 0]]).moves = .request [0x03, 0, 0, 0] :: [] ∧
      step (settling [.request [0x03, 0, 0, 0]]) = .refused .initNotAdmitted) ∧
    ∃ s', step (fresh [.request [0, 0, 0, 0]]) = .next s' := ⟨⟨rfl, rfl⟩, _, rfl⟩

/-- A refused `INIT`, a word that selects no operation and a `NEXT`, asked after the sequence failed. -/
theorem witness_RunEndsWithItsLastRequest : ∃ (s : State) (reqs : List (List Byte)), s.is = .failed ∧
    s.quiescent = true ∧ s.held = [] ∧ (∀ bytes ∈ reqs, ∀ sub arg, decode bytes ≠ .ok (.send sub arg)) ∧
    (∀ m ∈ [Move.setCap false], m.isRequest = false) ∧ s.moves = reqs.map .request ++ [.setCap false] ∧ reqs ≠ [] :=
  ⟨{ fresh [.request [3, 0, 0, 0], .request [5, 0, 0, 0], .request [0, 0, 0, 0], .setCap false] with is := .failed },
    [[3, 0, 0, 0], [5, 0, 0, 0], [0, 0, 0, 0]], rfl, rfl, rfl, by
      intro bytes hb
      simp only [List.mem_cons, List.not_mem_nil, or_false] at hb
      rcases hb with rfl | rfl | rfl <;> exact fun _ _ => (nomatch ·), by decide, rfl, by decide⟩

theorem witness_NewSessionOnlyFromAnEndedRun :
    ((fresh [.newSession]).quiescent = true ∧ (fresh [.newSession]).held = []) ∧
    (hostWaits [.newSession]).quiescent = false ∧
    (({ fresh [.newSession] with held := [⟨1, 2⟩] } : State).quiescent = true ∧
      ({ fresh [.newSession] with held := [⟨1, 2⟩] } : State).held ≠ []) := by decide

theorem witness_StepKeepsTheSessionInvariant : (hostWaits [.sendDone 7 true]).Inv ∧
    ∃ s', step (hostWaits [.sendDone 7 true]) = .next s' := ⟨hostWaits_inv _, _, rfl⟩

theorem witness_StepKeepsTheCounterLaw : (hostWaits [.sendDone 7 true]).CounterLaw ∧
    ∃ s', step (hostWaits [.sendDone 7 true]) = .next s' := ⟨⟨rfl, rfl⟩, _, rfl⟩

theorem witness_StepKeepsTheSequenceLaw : (settling [.timerExpire]).Inv ∧ (settling [.timerExpire]).SequenceLaw ∧
    ∃ s', step (settling [.timerExpire]) = .next s' := ⟨settling_inv _, ⟨rfl, rfl⟩, _, rfl⟩

end Sys2Proof.Tests
end

section
/-! SUPPORT. The session invariant in two halves, one about `PEND` and one about the flags, and what each shared operation
does to the first. -/

namespace Sys2Proof.Machine

/-- The half of the invariant about `PEND`, with `n` entries the sequence's own (10_state.md R20; 42_sender.md R79, R80). It
reads the pending entries and the parameter only, so an update of any other field keeps it by definition. -/
def State.PendOk (s : State) (n : Nat) : Prop :=
  (usedTags s.pend).Nodup ∧ s.countPend .init = n ∧ s.slots.allows (s.countPend .host) ∧
    ∀ e ∈ s.pend, IsReport e.payload

/-- The half of the invariant about `IS`, `OPENING` and `TMR` (10_state.md R19; 43_init_sequence.md R95, R102). -/
def InitState.FlagsOk (v : InitState) (opening tmr : Bool) : Prop :=
  (tmr = true ↔ v = .settling) ∧ (opening = true → v = .notStarted)

theorem inv_iff (s : State) : s.Inv ↔ s.PendOk s.is.awaited ∧ s.is.FlagsOk s.opening s.tmr :=
  ⟨fun ⟨hd, ht, hi, ho, hr, hp⟩ => ⟨⟨hd, hi, hr, hp⟩, ht, ho⟩,
   fun ⟨⟨hd, hi, hr, hp⟩, ht, ho⟩ => ⟨hd, ht, hi, ho, hr, hp⟩⟩

theorem InitState.FlagsOk.tmr_eq_false {v : InitState} {opening tmr : Bool} (h : v.FlagsOk opening tmr)
    (hv : v ≠ .settling) : tmr = false :=
  Bool.eq_false_iff.2 fun ht => hv (h.1.1 ht)

theorem InitState.FlagsOk.opening_eq_false {v : InitState} {opening tmr : Bool} (h : v.FlagsOk opening tmr)
    (hv : v ≠ .notStarted) : opening = false :=
  Bool.eq_false_iff.2 fun ho => hv (h.2 ho)

/-- With both flags down only `Settling` is excluded. -/
theorem InitState.flagsOk_of_down {v : InitState} {opening tmr : Bool} (hv : v ≠ .settling) (ho : opening = false)
    (ht : tmr = false) : v.FlagsOk opening tmr := by
  subst ho ht
  exact ⟨⟨(nomatch ·), fun h => absurd h hv⟩, (nomatch ·)⟩

theorem HostSlots.allows_mono {slots : HostSlots} {m n : Nat} (hmn : m ≤ n) (h : slots.allows n) : slots.allows m := by
  cases slots with
  | bounded extra => exact Nat.le_trans hmn h
  | unbounded => trivial

theorem HostSlots.allows_zero (slots : HostSlots) : slots.allows 0 := by
  cases slots with
  | bounded extra => exact Nat.zero_le _
  | unbounded => trivial

theorem pendOk_of_pend_nil {s : State} (h : s.pend = []) : s.PendOk 0 := by
  simp [State.PendOk, State.countPend, usedTags, h, HostSlots.allows_zero]

theorem payloads_issue {s : State} (h : ∀ e ∈ s.pend, IsReport e.payload) (o : Owner) (sub arg : Byte) :
    ∀ e ∈ (s.issue o sub arg).pend, IsReport e.payload := by
  intro e he
  rw [issue_pend, List.mem_append, List.mem_singleton] at he
  rcases he with he | rfl
  · exact h e he
  · exact isReport_encodeReport _ _ _

/-- A host send is issued into a free slot (42_sender.md R79). -/
theorem State.PendOk.issue_host {s : State} {n : Nat} (h : s.PendOk n) (hfree : s.hostFull = false) (sub arg : Byte) :
    (s.issue .host sub arg).PendOk n := by
  obtain ⟨hd, hi, -, hp⟩ := h
  refine ⟨usedTags_issue_nodup hd _ _ _, ?_, ?_, payloads_issue hp _ _ _⟩
  · simpa using hi
  · simpa using (hostFull_eq_false_iff s).1 hfree

/-- A send of the sequence takes no host slot. -/
theorem State.PendOk.issue_init {s : State} {n : Nat} (h : s.PendOk n) (sub arg : Byte) :
    (s.issue .init sub arg).PendOk (n + 1) := by
  obtain ⟨hd, hi, hr, hp⟩ := h
  refine ⟨usedTags_issue_nodup hd _ _ _, ?_, ?_, payloads_issue hp _ _ _⟩
  · simpa using hi
  · simpa using hr

/-- Removing an entry takes one from its owner's count: the sequence's count goes from `n` to `k`, which is less only where
the entry is its own. -/
theorem State.PendOk.removePend {s : State} {n k : Nat} (h : s.PendOk n) {t : Tag} {e : PendEntry}
    (he : s.findPend t = some e) (hk : k + (if e.owner = .init then 1 else 0) = n) : (s.removePend t).PendOk k := by
  obtain ⟨hd, hi, hr, hp⟩ := h
  have hinit := countPend_removePend hd he .init
  have hhost := countPend_removePend hd he .host
  exact ⟨usedTags_removePend_nodup hd t, by omega, HostSlots.allows_mono (by omega) hr,
    fun x hx => hp x (List.mem_filter.1 hx).1⟩

theorem State.PendOk.remove_host {s : State} {n : Nat} (h : s.PendOk n) {t : Tag} {e : PendEntry}
    (he : s.findPend t = some e) (ho : e.owner = .host) : (s.removePend t).PendOk n :=
  h.removePend he (by simp [ho])

theorem State.PendOk.remove_init {s : State} {n : Nat} (h : s.PendOk (n + 1)) {t : Tag} {e : PendEntry}
    (he : s.findPend t = some e) (ho : e.owner = .init) : (s.removePend t).PendOk n :=
  h.removePend he (by simp [ho])

end Sys2Proof.Machine
end

section
/-! SUPPORT. The session invariant at the start of a session and across each way a step goes on. -/

namespace Sys2Proof.Machine

theorem newSession_inv (s : State) : s.newSession.Inv :=
  (inv_iff _).2 ⟨pendOk_of_pend_nil rfl, InitState.flagsOk_of_down (nomatch ·) rfl rfl⟩

theorem newSession_counterLaw (s : State) : s.newSession.CounterLaw := ⟨rfl, rfl⟩

theorem newSession_sequenceLaw (s : State) : s.newSession.SequenceLaw := ⟨rfl, rfl⟩

/-- The session of `State.reset` is a new one. -/
theorem reset_newSession : State.reset.newSession = State.reset := rfl

/-- The sequence hands a send over where it had none pending and both flags are down, into a state that awaits one
(43_init_sequence.md R89, R92, R101). -/
theorem issue_init_inv {s : State} (hp : s.PendOk 0) (hv : s.is.awaited = 1) (ho : s.opening = false)
    (ht : s.tmr = false) (sub arg : Byte) : (s.issue .init sub arg).Inv := by
  have hns : s.is ≠ .settling := fun h => absurd hv (by rw [h]; decide)
  rw [inv_iff, issue_is, issue_opening, issue_tmr, hv]
  exact ⟨hp.issue_init sub arg, InitState.flagsOk_of_down hns ho ht⟩

/-- The sequence starts with nothing of its own pending and both flags down (43_init_sequence.md R89, R101). -/
theorem startSequence_inv {s : State} (hp : s.PendOk 0) (ho : s.opening = false) (ht : s.tmr = false) :
    s.startSequence.Inv :=
  issue_init_inv (s := s.setIs .sensorEnabling) hp rfl ho ht _ _

/-- Every way on from a move keeps the invariant. -/
theorem MoveCase.inv {s s' : State} {m : Move} (hc : MoveCase s m s') (h : s.Inv) : s'.Inv := by
  obtain ⟨hp, hf⟩ := (inv_iff s).1 h
  cases hc with
  | next | encode | sendHeld | beginFail | offerStill | setCap | inbound => exact (inv_iff _).2 ⟨hp, hf⟩
  | sendIssued _ hfree => exact (inv_iff _).2 ⟨hp.issue_host hfree _ _, hf⟩
  | offerIssued _ hfree =>
    exact (inv_iff _).2 ⟨State.PendOk.issue_host (s := s.setHeld _) hp hfree _ _, hf⟩
  | init _ hi ho =>
    rw [hi] at hp hf
    exact startSequence_inv hp ho (hf.tmr_eq_false (nomatch ·))
  | beginOpen _ hi _ _ => exact (inv_iff _).2 ⟨hp, hf.1, fun _ => hi⟩
  | openOk ho =>
    rw [hf.2 ho] at hp hf
    exact startSequence_inv (s := s.setOpening false) hp rfl (hf.tmr_eq_false (nomatch ·))
  | openFail => exact (inv_iff _).2 ⟨hp, hf.1, (nomatch ·)⟩
  | hostDone he ho | hostFail he ho => exact (inv_iff _).2 ⟨hp.remove_host he ho, hf⟩
  | step1Done he ho hi =>
    rw [hi] at hp hf
    have hopen := hf.opening_eq_false (nomatch ·)
    exact (inv_iff _).2 ⟨hp.remove_init he ho, ⟨fun _ => rfl, fun _ => rfl⟩,
      fun h => absurd (hopen.symm.trans h) Bool.false_ne_true⟩
  | step1Fail he ho hi | step3Done he ho hi | step3Fail he ho hi =>
    rw [hi] at hp hf
    exact (inv_iff _).2 ⟨hp.remove_init he ho, InitState.flagsOk_of_down (nomatch ·)
      (hf.opening_eq_false (nomatch ·)) (hf.tmr_eq_false (nomatch ·))⟩
  | timer ht =>
    rw [hf.1.1 ht] at hp hf
    exact issue_init_inv (s := (s.setTmr false).setIs .modeSwitching) hp rfl
      (hf.opening_eq_false (nomatch ·)) rfl _ _
  | newSession => exact newSession_inv s

/-- The invariant does not read the coming moves. -/
theorem inv_moves {s : State} (h : s.Inv) (ms : List Move) : State.Inv { s with moves := ms } :=
  (inv_iff _).2 ((inv_iff s).1 h)

/-- Settles O42: each way on from a move keeps the invariant, and the idle step changes nothing. -/
theorem stepKeepsTheSessionInvariant : Obligations.StepKeepsTheSessionInvariant := by
  intro s s' h hs
  obtain ⟨-, rfl⟩ | ⟨m, rest, -, hc⟩ := step_next_cases hs
  · exact h
  · exact hc.inv (inv_moves h rest)

end Sys2Proof.Machine
end

section
/-! SUPPORT. Sessions side by side: what one move of one session, and a schedule of moves, do to each. -/

namespace Sys2Proof.Machine

/-- A move of the `k`-th session is that session's own and no other's (10_state.md R13). -/
theorem Fleet.step_getElem? (f : Fleet) (k j : Nat) :
    (f.step k)[j]? = f[j]?.map fun s => if k = j then s.move else s :=
  List.getElem?_modify State.move k f j

@[simp] theorem Fleet.run_nil (f : Fleet) : f.run [] = f := rfl

@[simp] theorem Fleet.run_cons (f : Fleet) (k : Nat) (sched : List Nat) :
    f.run (k :: sched) = (f.step k).run sched := rfl

/-- Settles O40, by induction on the schedule: its first move counts for the session it names alone. -/
theorem sessionsAreIndependent : Obligations.SessionsAreIndependent := by
  intro f sched j
  induction sched generalizing f with
  | nil => simp
  | cons k sched ih =>
    rw [Fleet.run_cons, ih, Fleet.step_getElem?, Option.map_map]
    congr 1
    funext s
    by_cases hk : k = j <;> simp [hk]

end Sys2Proof.Machine
end

section
/-! SUPPORT. The state after reset (10_state.md R29). -/

namespace Sys2Proof.Machine

/-- Settles O38: each field of `State.reset` is the value R29 lists. -/
theorem resetValuesOfTheFiveElements : Obligations.ResetValuesOfTheFiveElements :=
  ⟨rfl, rfl, rfl, rfl, rfl⟩

/-- Settles O41: reset is a new session, with nothing pending and nothing emitted. -/
theorem invariantsHoldAfterReset : Obligations.InvariantsHoldAfterReset := by
  rw [Obligations.InvariantsHoldAfterReset, ← reset_newSession]
  exact ⟨newSession_inv _, newSession_counterLaw _, newSession_sequenceLaw _⟩

end Sys2Proof.Machine
end

section
/-! SUPPORT. A request is the instruction its bytes decode to (20_memory.md R39, 30_encoding.md R52). -/

namespace Sys2Proof.Machine

/-- The bytes of a request count only through what they decode to. -/
theorem takeRequest_of_decode {bytes : List Byte} {i : Instr} (hd : decode bytes = .ok i) (s : State) :
    takeRequest bytes s = exec i s := by simp only [takeRequest, hd]

/-- Settles O35: the step takes the request off the list, and taking it is `exec` of what it decodes to. -/
theorem stepRunsTheDecodedInstruction : Obligations.StepRunsTheDecodedInstruction := by
  intro s bytes rest i hm hd
  calc step s = takeMove (.request bytes) { s with moves := rest } := step_cons hm
    _ = takeRequest bytes { s with moves := rest } := rfl
    _ = exec i { s with moves := rest } := takeRequest_of_decode hd _

end Sys2Proof.Machine
end

section
/-! SUPPORT. The `REQ` word by its operation byte (30_encoding.md R52, R60), and the codec round trip (R52, R49, R63). -/

namespace Sys2Proof

section
variable (n sub arg : Byte)
@[simp] theorem decodeReq_next : decodeReq 0x00 n sub arg = .ok .next := rfl
@[simp] theorem decodeReq_encode : decodeReq 0x01 n sub arg = .ok (.encode n.toNat sub arg) := rfl
@[simp] theorem decodeReq_send : decodeReq 0x02 n sub arg = .ok (.send sub arg) := rfl
@[simp] theorem decodeReq_init : decodeReq 0x03 n sub arg = .ok .init := rfl
@[simp] theorem decodeReq_beginSession : decodeReq 0x04 n sub arg = .ok .beginSession := rfl
end

/-- An operation byte above the table's selects nothing (R60). -/
theorem decodeReq_reserved {op : Byte} (h : 5 ≤ op.toNat) (n sub arg : Byte) :
    decodeReq op n sub arg = .error (.reservedOp op) := by
  unfold decodeReq
  split
  case h_6 => rfl
  all_goals omega

/-- A `REQ` word is rejected for its operation byte only. -/
theorem decodeReq_error {op n sub arg : Byte} {e : DecodeError} (h : decodeReq op n sub arg = .error e) :
    e = .reservedOp op := by
  unfold decodeReq at h
  split at h <;> cases h
  rfl

/-- A sequence operand that fits its field is read back. -/
theorem decode_encode_of_lt {n : Nat} (hn : n < 256) (sub arg : Byte) :
    decode (encode (.encode n sub arg)) = .ok (.encode n sub arg) := by
  rw [encode, decode_req, decodeReq_encode, BitVec.toNat_ofNat, Nat.mod_eq_of_lt hn]

/-- Settles O1: a `REQ` row is read by its operation byte, a report row by its layout. -/
theorem decodeOfEncodeIsTheInstruction : Obligations.DecodeOfEncodeIsTheInstruction := by
  intro i hwf
  cases i with
  | encode n sub arg => exact decode_encode_of_lt (of_decide_eq_true hwf) sub arg
  | next | init | beginSession | imuOn | modeStd60 => rfl
  | send sub arg => exact decodeReq_send 0x00 sub arg
  | rpt seq sub arg => exact decode_rptBytes seq sub arg
  | rptImuOn seq | rptModeStd60 seq => exact decode_rptBytes seq _ _

/-- Settles O4: each word's operation byte selects its row. -/
theorem specVectorWordsDecode : Obligations.SpecVectorWordsDecode :=
  ⟨rfl, rfl, rfl, rfl, rfl, rfl⟩

namespace Machine

/-- Settles O3: the operation byte alone decides, and none of 5 or more has a row. -/
theorem reservedOpRefusedAndUnusedFieldsIgnored : Obligations.ReservedOpRefusedAndUnusedFieldsIgnored := by
  refine ⟨fun s rest op n sub arg hop hm => ?_, fun n sub arg => ?_⟩
  · rw [step_cons hm, takeMove, takeRequest, decode_req, decodeReq_reserved hop]
  · simp only [decode_req, decodeReq_next, decodeReq_send, decodeReq_init, decodeReq_beginSession, and_self]

end Machine
end Sys2Proof
end

section
/-! SUPPORT. The operation table of 30_encoding.md R52: its rows, and the fields of the `REQ` word. -/

namespace Sys2Proof

/-- The operation byte a row of the table asks for. -/
def ReqRow.op (row : ReqRow) : Byte := row.pattern.extractLsb' 24 8

/-- The five rows share one mask, and each asks for its operation byte at bits 31:24. -/
theorem reqTable_mask_pattern :
    ∀ row ∈ reqTable, row.mask = (0xFF : Byte) ++ (0 : BitVec 24) ∧ row.pattern = row.op ++ (0 : BitVec 24) := by decide

/-- The mask of the table keeps the operation byte and clears the rest. -/
theorem and_opMask (w : BitVec 32) :
    w &&& ((0xFF : Byte) ++ (0 : BitVec 24)) = w.extractLsb' 24 8 ++ (0 : BitVec 24) :=
  calc w &&& ((0xFF : Byte) ++ (0 : BitVec 24))
      = (w.extractLsb' 24 8 ++ w.extractLsb' 0 24) &&& (BitVec.allOnes 8 ++ (0 : BitVec 24)) :=
        congrArg (· &&& _) (BitVec.extractLsb'_append_extractLsb' (w := 8) (len := 24)).symm
    _ = w.extractLsb' 24 8 ++ (0 : BitVec 24) := by
        rw [BitVec.and_append, BitVec.and_allOnes, BitVec.ofNat_eq_ofNat, BitVec.and_zero]

/-- A row's mask and match hold of a word exactly when its operation byte is the row's. -/
theorem ReqRow.matches_iff {row : ReqRow} (hrow : row ∈ reqTable) (w : BitVec 32) :
    w &&& row.mask = row.pattern ↔ w.extractLsb' 24 8 = row.op := by
  obtain ⟨hmask, hpattern⟩ := reqTable_mask_pattern row hrow
  rw [hmask, hpattern, and_opMask, BitVec.append_left_inj]

theorem reqTable_mnemonic_injective :
    ∀ row ∈ reqTable, ∀ row' ∈ reqTable, row.mnemonic = row'.mnemonic → row = row' := by decide

/-- Every row's operation byte selects an operation of its name. -/
theorem decodeReq_of_row {row : ReqRow} (hrow : row ∈ reqTable) (n sub arg : Byte) :
    ∃ i, decodeReq row.op n sub arg = .ok i ∧ i.mnemonic = row.mnemonic := by
  simp only [reqTable, List.mem_cons, List.not_mem_nil, or_false] at hrow
  rcases hrow with rfl | rfl | rfl | rfl | rfl <;> exact ⟨_, rfl, rfl⟩

/-- Every decoded operation has a row, of its name and its operation byte. -/
theorem row_of_decodeReq {op n sub arg : Byte} {i : Instr} (h : decodeReq op n sub arg = .ok i) :
    ∃ row ∈ reqTable, row.op = op ∧ row.mnemonic = i.mnemonic := by
  rcases decodeReq_ok h with ⟨rfl, rfl⟩ | ⟨rfl, rfl⟩ | ⟨rfl, rfl⟩ | ⟨rfl, rfl⟩ | ⟨rfl, rfl⟩ <;>
    simp [reqTable, ReqRow.op, Instr.mnemonic]

/-- A row's name is decoded exactly at its operation byte. -/
theorem decodeReq_row_iff {row : ReqRow} (hrow : row ∈ reqTable) (op n sub arg : Byte) :
    (∃ i, decodeReq op n sub arg = .ok i ∧ i.mnemonic = row.mnemonic) ↔ op = row.op := by
  constructor
  · rintro ⟨i, hi, hname⟩
    obtain ⟨row', hrow', rfl, hname'⟩ := row_of_decodeReq hi
    rw [reqTable_mnemonic_injective row hrow row' hrow' (hname.symm.trans hname'.symm)]
  · rintro rfl
    exact decodeReq_of_row hrow n sub arg

/-- The operands of a decoded `ENCODE` are the three fields below its operation byte. -/
theorem decodeReq_encode_operands {op n sub arg sub' arg' : Byte} {m : Nat}
    (h : decodeReq op n sub arg = .ok (.encode m sub' arg')) : m = n.toNat ∧ sub' = sub ∧ arg' = arg := by
  rcases decodeReq_ok h with ⟨-, hi⟩ | ⟨-, hi⟩ | ⟨-, hi⟩ | ⟨-, hi⟩ | ⟨-, hi⟩ <;> cases hi
  exact ⟨rfl, rfl, rfl⟩

/-- The operands of a decoded `SEND` are the two lowest fields. -/
theorem decodeReq_send_operands {op n sub arg sub' arg' : Byte}
    (h : decodeReq op n sub arg = .ok (.send sub' arg')) : sub' = sub ∧ arg' = arg := by
  rcases decodeReq_ok h with ⟨-, hi⟩ | ⟨-, hi⟩ | ⟨-, hi⟩ | ⟨-, hi⟩ | ⟨-, hi⟩ <;> cases hi
  exact ⟨rfl, rfl⟩

/-- A byte field of the `REQ` word as a number. -/
theorem field_toNat (w : BitVec 32) (k : Nat) : (w.extractLsb' k 8).toNat = w.toNat / 2 ^ k % 256 := by
  rw [BitVec.extractLsb'_toNat, Nat.shiftRight_eq_div_pow]

/-- Settles O2: a row's equation says which operation byte the word has, and the operation byte which row is decoded. -/
theorem requestWordDecodesByItsTableRow : Obligations.RequestWordDecodesByItsTableRow := by
  intro w
  refine ⟨fun row hrow => ?_, fun hnone => ?_, fun n sub arg h => ?_, fun sub arg h => ?_⟩
  · rw [row.matches_iff hrow, reqBytes, decode_req, decodeReq_row_iff hrow]
  · rw [reqBytes, decode_req]
    cases h : decodeReq (w.extractLsb' 24 8) (w.extractLsb' 16 8) (w.extractLsb' 8 8) (w.extractLsb' 0 8) with
    | error e => exact ⟨_, congrArg _ (decodeReq_error h)⟩
    | ok i =>
      obtain ⟨row, hrow, hop, -⟩ := row_of_decodeReq h
      exact absurd ((row.matches_iff hrow w).2 hop.symm) (hnone row hrow)
  · obtain ⟨rfl, rfl, rfl⟩ := decodeReq_encode_operands h
    exact ⟨field_toNat w 16, field_toNat w 8, by simp⟩
  · obtain ⟨rfl, rfl⟩ := decodeReq_send_operands h
    exact ⟨field_toNat w 8, by simp⟩

end Sys2Proof
end

section
/-! SUPPORT. The number `R384(B)` of 00_scope.md R11, byte by byte: masking it masks each byte, and it determines each
byte. -/

namespace Sys2Proof

/-- A number with one more byte after it, the step of `r384`. -/
def pushByte (acc : Nat) (b : Byte) : Nat := acc * 256 + b.toNat

theorem r384_eq_foldl (l : List Byte) : r384 l = l.foldl pushByte 0 := rfl

theorem pushByte_land (a b : Nat) (x y : Byte) : pushByte a x &&& pushByte b y = pushByte (a &&& b) (x &&& y) := by
  have hbit : ∀ (c : Nat) (z : Byte) (j : Nat),
      (pushByte c z).testBit j = if j < 8 then z.toNat.testBit j else c.testBit (j - 8) := fun c z j => by
    rw [pushByte, Nat.mul_comm, ← Nat.testBit_two_pow_mul_add c z.isLt j]
  apply Nat.eq_of_testBit_eq
  intro j
  rw [Nat.testBit_land, hbit, hbit, hbit]
  split
  · rw [BitVec.toNat_and, Nat.testBit_land]
  · rw [Nat.testBit_land]

theorem pushByte_injective {a b : Nat} {x y : Byte} (h : pushByte a x = pushByte b y) : a = b ∧ x = y := by
  have hx := x.isLt
  have hy := y.isLt
  unfold pushByte at h
  exact ⟨by omega, BitVec.eq_of_toNat_eq (by omega)⟩

theorem foldl_pushByte_land : ∀ (l m : List Byte), l.length = m.length → ∀ a b : Nat,
    l.foldl pushByte a &&& m.foldl pushByte b = (List.zipWith (· &&& ·) l m).foldl pushByte (a &&& b)
  | [], [], _, _, _ => rfl
  | x :: l, y :: m, h, a, b => by
    rw [List.foldl_cons, List.foldl_cons, List.zipWith_cons_cons, List.foldl_cons, ← pushByte_land]
    exact foldl_pushByte_land l m (Nat.succ.inj h) _ _

theorem foldl_pushByte_injective : ∀ (l m : List Byte), l.length = m.length → ∀ a b : Nat,
    l.foldl pushByte a = m.foldl pushByte b → a = b ∧ l = m
  | [], [], _, _, _, h => ⟨h, rfl⟩
  | x :: l, y :: m, hlen, a, b, h => by
    obtain ⟨hab, rfl⟩ := foldl_pushByte_injective l m (Nat.succ.inj hlen) _ _ h
    obtain ⟨rfl, rfl⟩ := pushByte_injective hab
    exact ⟨rfl, rfl⟩

theorem foldl_pushByte_lt : ∀ (l : List Byte) (a : Nat), l.foldl pushByte a < (a + 1) * 256 ^ l.length
  | [], a => by simp
  | x :: l, a => by
    have hx := x.isLt
    calc (x :: l).foldl pushByte a
        < (pushByte a x + 1) * 256 ^ l.length := foldl_pushByte_lt l _
      _ ≤ ((a + 1) * 256) * 256 ^ l.length := Nat.mul_le_mul_right _ (by unfold pushByte; omega)
      _ = (a + 1) * 256 ^ (x :: l).length := by rw [List.length_cons, Nat.pow_succ', Nat.mul_assoc]

/-- A report as the 384-bit number the equation of 30_encoding.md R50 is about. -/
def reportWord (B : Report) : BitVec 384 := BitVec.ofNat 384 (r384 B.toList)

theorem reportWord_land (B C : Report) :
    reportWord B &&& reportWord C = reportWord (Vector.zipWith (· &&& ·) B C) := by
  simp only [reportWord, r384_eq_foldl, ← BitVec.ofNat_and]
  rw [foldl_pushByte_land _ _ (by simp), Vector.toList_zipWith, Nat.zero_and]

theorem r384_lt (B : Report) : r384 B.toList < 2 ^ 384 := by
  have h := foldl_pushByte_lt B.toList 0
  rw [← r384_eq_foldl, Vector.length_toList, Nat.zero_add, Nat.one_mul, show 256 = 2 ^ 8 from rfl, ← Nat.pow_mul] at h
  simpa only [Nat.reduceMul] using h

theorem reportWord_injective {B C : Report} (h : reportWord B = reportWord C) : B = C := by
  have hnat : r384 B.toList = r384 C.toList := by
    simpa only [reportWord, BitVec.toNat_ofNat, Nat.mod_eq_of_lt (r384_lt _)] using congrArg BitVec.toNat h
  exact Vector.toList_inj.1 (foldl_pushByte_injective _ _ (by simp) _ _ hnat).2

end Sys2Proof
end

section
/-! SUPPORT. The mask and match of 30_encoding.md R50 as reports, and the bytes they leave free. -/

namespace Sys2Proof.Machine

/-- The bytes of the mask of R50: the low half of byte 0 and the bytes 9 and 10 are free, every other bit is fixed. -/
def maskReport : Report := (((Vector.replicate 48 (0xFF : Byte)).set 0 0xF0).set 9 0x00).set 10 0x00

theorem rptMask_eq : rptMask = reportWord maskReport := congrArg (BitVec.ofNat 384) (by decide)

/-- The match of R50 is the report whose free bits are all 0. -/
theorem rptMatch_eq : rptMatch = reportWord (encodeReport 0 0x00 0x00) := congrArg (BitVec.ofNat 384) (by decide)

/-- The operands of a report reach its three stamped bytes only (41_encoder.md R76). -/
theorem encodeReport_getElem_fixed (n n' : Nat) (sub sub' arg arg' : Byte) {i : Nat} (hi : i < 48) (h0 : i ≠ 0)
    (h9 : i ≠ 9) (h10 : i ≠ 10) : (encodeReport n sub arg)[i] = (encodeReport n' sub' arg')[i] := by
  simp only [encodeReport, Vector.getElem_set, h0.symm, h9.symm, h10.symm, if_false]

theorem maskReport_getElem_fixed {i : Nat} (hi : i < 48) (h0 : i ≠ 0) (h9 : i ≠ 9) (h10 : i ≠ 10) :
    maskReport[i] = BitVec.allOnes 8 := by
  simp only [maskReport, Vector.getElem_set, h0.symm, h9.symm, h10.symm, if_false, Vector.getElem_replicate]
  rfl

/-- A byte is its own sequence byte exactly when its high half is clear (30_encoding.md R54). -/
theorem and_highNibble_eq_zero_iff : ∀ b : Byte, b &&& 0xF0 = 0x00 ↔ b = seqByte b.toNat := by decide

/-- Byte by byte, the equation of R50 asks for the byte that `encodeReport` writes there. -/
theorem masked_byte_iff (B : Report) {i : Nat} (hi : i < 48) :
    B[i] &&& maskReport[i] = (encodeReport 0 0x00 0x00)[i] ↔ B[i] = (encodeReport (B[0]).toNat B[9] B[10])[i] := by
  by_cases h0 : i = 0
  · subst h0
    exact and_highNibble_eq_zero_iff B[0]
  by_cases h9 : i = 9
  · subst h9
    exact iff_of_true (BitVec.and_zero (x := B[9])) rfl
  by_cases h10 : i = 10
  · subst h10
    exact iff_of_true (BitVec.and_zero (x := B[10])) rfl
  rw [maskReport_getElem_fixed hi h0 h9 h10, BitVec.and_allOnes,
    encodeReport_getElem_fixed 0 (B[0]).toNat 0x00 B[9] 0x00 B[10] hi h0 h9 h10]

/-- Settles O5: masking a report masks each byte, and each masked byte is the match's where the block writes it so. -/
theorem maskAndMatchAreExactlyTheReports : Obligations.MaskAndMatchAreExactlyTheReports := by
  intro B
  calc BitVec.ofNat 384 (r384 B.toList) &&& rptMask = rptMatch
      ↔ reportWord B &&& reportWord maskReport = reportWord (encodeReport 0 0x00 0x00) := by
        rw [rptMask_eq, rptMatch_eq, ← reportWord]
    _ ↔ Vector.zipWith (· &&& ·) B maskReport = encodeReport 0 0x00 0x00 := by
        rw [reportWord_land]
        exact ⟨reportWord_injective, congrArg reportWord⟩
    _ ↔ ∀ (i : Nat) (hi : i < 48), B[i] &&& maskReport[i] = (encodeReport 0 0x00 0x00)[i] := by
        simp only [Vector.ext_iff, Vector.getElem_zipWith]
    _ ↔ ∀ (i : Nat) (hi : i < 48), B[i] = (encodeReport (B[0]).toNat B[9] B[10])[i] :=
        forall₂_congr fun i hi => masked_byte_iff B hi
    _ ↔ B = encodeReport (B[0]).toNat B[9] B[10] := 
        ⟨fun h => Vector.ext h, fun h i hi => congrArg (·[i]) h⟩

end Sys2Proof.Machine
end

section
/-! SUPPORT. A host send of any spelling, the report rows, and a placed table word (42_sender.md R78, 30_encoding.md R48,
R63). -/

namespace Sys2Proof.Machine

/-- A host send goes through the issue phase while a slot is free (42_sender.md R78, R79). -/
theorem hostSend_of_free {s : State} (h : s.hostFull = false) (c : Command) :
    s.hostSend c = s.issue .host c.sub c.arg := by
  rw [State.hostSend, h]
  rfl

/-- The two pseudo-operations are host sends of their Command (30_encoding.md R63). -/
theorem exec_imuOn (s : State) : exec .imuOn s = .next (s.hostSend Config.cmdImuOn) := rfl

theorem exec_modeStd60 (s : State) : exec .modeStd60 s = .next (s.hostSend Config.cmdModeStd60) := rfl

/-- Settles O12: with a slot free each pseudo-operation is the issue phase, under the state's next tag. -/
theorem pseudoOpsIssueTheirCommands : Obligations.PseudoOpsIssueTheirCommands := by
  intro s hroom
  have hfree := (hostFull_eq_false_iff s).2 hroom
  refine ⟨s.nextTag, nextTag_fresh s, ?_, ?_⟩
  · rw [exec_imuOn, hostSend_of_free hfree, issue_eq]; rfl
  · rw [exec_modeStd60, hostSend_of_free hfree, issue_eq]; rfl

/-- Settles O34: each report row answers `refuseReport`. -/
theorem reportRowsAreNoOperations : Obligations.ReportRowsAreNoOperations :=
  fun _ _ _ _ => ⟨rfl, rfl, rfl⟩

/-- A table word that reads as an instruction has bytes that decode to it. -/
theorem decode_tableBytes {nbits w : Nat} {i : Instr} (h : decodeTableWord nbits w = some i) :
    decode (tableBytes nbits w) = .ok i := by
  unfold decodeTableWord at h
  split at h <;> cases h
  assumption

/-- Settles O36: the placed word is the next request, and taking it off leaves the state as it was. -/
theorem placedWordIsRunNext : Obligations.PlacedWordIsRunNext := by
  intro s nbits w i h
  exact stepRunsTheDecodedInstruction (s.withFetchWord nbits w) _ s.moves i rfl (decode_tableBytes h)

/-- Settles O46: a refused request is passed over, and a step that goes on is the run's move. -/
theorem runPassesRefusedRequestsOver : Obligations.RunPassesRefusedRequestsOver := by
  intro s
  refine ⟨fun r bytes rest hm hr => ?_, fun s' hs => move_of_next hs⟩
  rw [move_of_refused hr, passOver_request hm]

end Sys2Proof.Machine
end

section
/-! SUPPORT. Where the machine goes on: the guard of each instruction and of each move (30_encoding.md R60,
43_init_sequence.md R95, R102, 60_exceptions.md R111, 70_reset_and_hazards.md R125). -/

namespace Sys2Proof.Machine

theorem execInit_next_iff (s : State) :
    (∃ s', execInit s = .next s') ↔ s.is = .notStarted ∧ s.opening = false := by
  rw [← admitsInit_iff, execInit]
  cases s.admitsInit <;> simp

theorem execBegin_next_iff (s : State) :
    (∃ s', execBegin s = .next s') ↔ s.is = .notStarted ∧ s.opening = false := by
  rw [← admitsInit_iff, execBegin]
  cases s.admitsInit <;> cases s.cap <;> simp

theorem takeRequest_of_error {bytes : List Byte} {e : DecodeError} (hd : decode bytes = .error e) (s : State) :
    takeRequest bytes s = .refused (.undecodable e) := by simp only [takeRequest, hd]

theorem takeOfferHeld_next_iff (k : Nat) (s : State) :
    (∃ s', takeOfferHeld k s = .next s') ↔ k < s.held.length := by
  unfold takeOfferHeld
  split
  case h_1 hk => simpa using hk
  case h_2 c hk =>
    have hlt : k < s.held.length := (List.getElem?_eq_some_iff.1 hk).1
    split <;> simp [hlt]

theorem takeOpenDone_next_iff (ok : Bool) (s : State) : (∃ s', takeOpenDone ok s = .next s') ↔ s.opening = true := by
  unfold takeOpenDone
  cases s.opening <;> cases ok <;> simp

theorem takeTimerExpire_next_iff (s : State) : (∃ s', takeTimerExpire s = .next s') ↔ s.tmr = true := by
  unfold takeTimerExpire
  cases s.tmr <;> simp

theorem takeNewSession_next_iff (s : State) :
    (∃ s', takeNewSession s = .next s') ↔ s.quiescent = true ∧ s.held = [] := by
  rw [takeNewSession, ← List.isEmpty_iff, ← Bool.and_eq_true]
  cases s.quiescent && s.held.isEmpty <;> simp

/-- A pending send of the sequence is one that `IS` awaits (10_state.md R20). -/
theorem awaiting_of_init_pending {s : State} (h : s.Inv) {e : PendEntry} (he : e ∈ s.pend) (ho : e.owner = .init) :
    s.is = .sensorEnabling ∨ s.is = .modeSwitching := by
  have hpos : 0 < s.is.awaited := by
    rw [← h.init_pending]
    exact List.countP_pos_iff.2 ⟨e, he, by simp [ho]⟩
  cases hi : s.is <;> simp [hi, InitState.awaited] at hpos ⊢

/-- Under the invariant every pending send may complete: its owner, and for the sequence's own the state awaiting it, say
how. -/
theorem takeSendDone_next_iff {s : State} (h : s.Inv) (t : Tag) (ok : Bool) :
    (∃ s', takeSendDone t ok s = .next s') ↔ t ∈ usedTags s.pend := by
  cases he : s.findPend t with
  | none => simpa [takeSendDone, he] using findPend_none.1 he
  | some e =>
    have hmem : t ∈ usedTags s.pend := by
      by_contra hnot
      rw [findPend_none.2 hnot] at he
      cases he
    refine iff_of_true ?_ hmem
    cases ho : e.owner with
    | host => exact ⟨_, takeSendDone_host he ho ok⟩
    | init =>
      rcases awaiting_of_init_pending h (findPend_mem he).1 ho with hi | hi
      · exact ⟨_, takeSendDone_step1 he ho hi ok⟩
      · exact ⟨_, takeSendDone_step3 he ho hi ok⟩

/-- Settles O32: an idle step goes on, and any other goes on where its move's guard holds. -/
theorem stepGoesOnExactlyWhereTheGuardHolds : Obligations.StepGoesOnExactlyWhereTheGuardHolds := by
  intro s h
  cases hm : s.moves with
  | nil => exact iff_of_true ⟨s, step_nil hm⟩ trivial
  | cons m rest =>
    rw [step_cons hm]
    cases m with
    | request bytes =>
      cases hd : decode bytes with
      | error e =>
        simp only [hd, takeMove, takeRequest_of_error hd]
        exact iff_of_false (fun ⟨_, hs⟩ => nomatch hs) id
      | ok i =>
        simp only [hd, takeMove, takeRequest_of_decode hd]
        cases i with
        | next | encode | send | imuOn | modeStd60 => exact iff_of_true ⟨_, rfl⟩ trivial
        | init => exact execInit_next_iff _
        | beginSession => exact execBegin_next_iff _
        | rpt | rptImuOn | rptModeStd60 => exact iff_of_false (fun ⟨_, hs⟩ => nomatch hs) id
    | offerHeld k => exact takeOfferHeld_next_iff k _
    | openDone ok => exact takeOpenDone_next_iff ok _
    | sendDone t ok => exact takeSendDone_next_iff (inv_moves h rest) t ok
    | timerExpire => exact takeTimerExpire_next_iff _
    | setCap | inbound => exact iff_of_true ⟨_, rfl⟩ trivial
    | newSession => exact takeNewSession_next_iff _

end Sys2Proof.Machine
end

section
/-! SUPPORT. What a step does to the counter and to the sequence values shown: nothing, or one advance that shows the old
value (40_counter.md R67, R70; 42_sender.md R78, R85). -/

namespace Sys2Proof.Machine

/-- The counter and the sequence values shown are those of `s`. -/
def State.KeepsCounter (s s' : State) : Prop := s'.cnt = s.cnt ∧ seqValues s'.out = seqValues s.out

/-- The counter is one past that of `s`, whose value has been shown once. -/
def State.AdvancesCounter (s s' : State) : Prop :=
  s'.cnt = s.cnt + 1 ∧ seqValues s'.out = seqValues s.out ++ [s.cnt.toNat]

/-- The moves that may read the counter: a request, a held `SEND` considered again, and the two events that make the
sequence issue a send (43_init_sequence.md R92, R101). -/
def Move.mayAdvance : Move → Bool
  | .request _ => true
  | .offerHeld _ => true
  | .openDone ok => ok
  | .sendDone _ _ => false
  | .timerExpire => true
  | .setCap _ => false
  | .inbound _ => false
  | .newSession => false

theorem State.KeepsCounter.emit {s s' : State} (h : s.KeepsCounter s') {e : OutEvent} (he : e.seqValue = none) :
    s.KeepsCounter (s'.emit e) := by
  obtain ⟨hcnt, hout⟩ := h
  exact ⟨hcnt, by simpa [seqValues, he] using hout⟩

/-- No failure response carries a sequence value, and no failure rolls the counter back (40_counter.md R70). -/
theorem State.KeepsCounter.raise {s s' : State} (h : s.KeepsCounter s') (f : Failure) : s.KeepsCounter (s'.raise f) := by
  cases f with
  | capability | openFailed | hostSend | step1 | step3 => exact .emit h rfl

/-- The issue phase is one advance (42_sender.md R78). -/
theorem State.KeepsCounter.issue {s s' : State} (h : s.KeepsCounter s') (o : Owner) (sub arg : Byte) :
    s.AdvancesCounter (s'.issue o sub arg) := by
  obtain ⟨hcnt, hout⟩ := h
  exact ⟨by rw [issue_cnt, hcnt], by rw [issue_out, seqValues_append, seqValues_issueEvents, hcnt, hout]⟩

theorem next_advancesCounter (s : State) : s.AdvancesCounter (s.advance.emit (.nextRsp s.cnt)) :=
  ⟨rfl, seqValues_append s.out [.nextRsp s.cnt]⟩

/-- Every way on from a move within a session keeps the counter, or is an advance by a move that may make one. -/
theorem MoveCase.counter {s s' : State} {m : Move} (hc : MoveCase s m s') (hm : m ≠ .newSession) :
    s.KeepsCounter s' ∨ s.AdvancesCounter s' ∧ m.mayAdvance = true := by
  cases hc with
  | next => exact .inr ⟨next_advancesCounter s, rfl⟩
  | sendIssued | offerIssued | init | openOk | timer => exact .inr ⟨State.KeepsCounter.issue ⟨rfl, rfl⟩ _ _ _, rfl⟩
  | encode | beginOpen | hostDone | step3Done => exact .inl (.emit ⟨rfl, rfl⟩ rfl)
  | beginFail | openFail | hostFail | step1Fail | step3Fail => exact .inl (.raise ⟨rfl, rfl⟩ _)
  | sendHeld | offerStill | step1Done | setCap | inbound => exact .inl ⟨rfl, rfl⟩
  | newSession => exact absurd rfl hm

end Sys2Proof.Machine
end

section
/-! SUPPORT. The law of the counter across a step, and the counter never rolled back (40_counter.md R68, R70). -/

namespace Sys2Proof.Machine

theorem State.CounterLaw.of_keepsCounter {s s' : State} (h : s.CounterLaw) (hk : s.KeepsCounter s') : s'.CounterLaw := by
  obtain ⟨hvalues, hcounter⟩ := h
  obtain ⟨hcnt, hout⟩ := hk
  exact ⟨by rw [hout]; exact hvalues, by rw [hcnt, hout]; exact hcounter⟩

/-- The value an advance shows is the number of advances before it, modulo 16. -/
theorem State.CounterLaw.of_advancesCounter {s s' : State} (h : s.CounterLaw) (ha : s.AdvancesCounter s') :
    s'.CounterLaw := by
  obtain ⟨hvalues, hcounter⟩ := h
  obtain ⟨hcnt, hout⟩ := ha
  have hlen : (seqValues s'.out).length = (seqValues s.out).length + 1 := by simp [hout]
  constructor
  · rw [hlen, List.range_succ, List.map_append, ← hvalues, hout, hcounter, List.map_singleton]
  · rw [hlen, hcnt, BitVec.toNat_add, hcounter]
    exact Nat.mod_add_mod _ 16 1

/-- Settles O43: a step keeps the counter, shows the next value of the law, or starts a session with nothing shown. -/
theorem stepKeepsTheCounterLaw : Obligations.StepKeepsTheCounterLaw := by
  intro s s' h hs
  obtain ⟨-, rfl⟩ | ⟨m, rest, -, hc⟩ := step_next_cases hs
  · exact h
  have hlaw : State.CounterLaw { s with moves := rest } := ⟨h.values, h.counter⟩
  by_cases hm : m = .newSession
  · subst hm
    cases hc
    exact newSession_counterLaw _
  · rcases hc.counter hm with hk | ⟨ha, -⟩
    · exact hlaw.of_keepsCounter hk
    · exact hlaw.of_advancesCounter ha

/-- What a step within a session does to the counter, by its first move. -/
theorem step_counter {s s' : State} (hs : step s = .next s') (hns : s.moves.head? ≠ some .newSession) :
    s.KeepsCounter s' ∨ s.AdvancesCounter s' ∧ ∃ m, s.moves.head? = some m ∧ m.mayAdvance = true := by
  obtain ⟨-, rfl⟩ | ⟨m, rest, hm, hc⟩ := step_next_cases hs
  · exact .inl ⟨rfl, rfl⟩
  · have hhead : s.moves.head? = some m := by rw [hm, List.head?_cons]
    exact (hc.counter fun h => hns (h ▸ hhead)).imp id fun ⟨ha, hmay⟩ => ⟨ha, m, hhead, hmay⟩

/-- A step whose move may not advance the counter keeps it. -/
theorem step_keepsCounter {s s' : State} (hs : step s = .next s') (hns : s.moves.head? ≠ some .newSession) {m : Move}
    (hhead : s.moves.head? = some m) (hm : m.mayAdvance = false) : s.KeepsCounter s' := by
  rcases step_counter hs hns with hk | ⟨-, m', hhead', hmay⟩
  · exact hk
  · obtain rfl := Option.some.inj (hhead.symm.trans hhead')
    exact absurd (hm.symm.trans hmay) Bool.false_ne_true

/-- Settles O10: a step within a session keeps or advances the counter, and no completion of a send and no failed open is a
move that may advance it. -/
theorem counterOnlyAdvancesAndNeverRollsBack : Obligations.CounterOnlyAdvancesAndNeverRollsBack :=
  fun _ _ hs hns => ⟨(step_counter hs hns).imp id And.left, fun _ _ hhead => step_keepsCounter hs hns hhead rfl,
    fun hhead => step_keepsCounter hs hns hhead rfl⟩

end Sys2Proof.Machine
end

section
/-! SUPPORT. `NEXT`, once and `k` times in a row (40_counter.md R67, R68). -/

namespace Sys2Proof.Machine

/-- Everything `NEXT` does (R67). -/
theorem exec_next (s : State) :
    exec .next s = .next { s with cnt := s.cnt + 1, out := s.out ++ [.nextRsp s.cnt] } := rfl

/-- Settles O8: the 4-bit counter adds one modulo 16. -/
theorem nextReturnsTheCounterThenAdvances : Obligations.NextReturnsTheCounterThenAdvances :=
  fun s => ⟨s.cnt + 1, BitVec.toNat_add s.cnt 1, exec_next s⟩

/-- The answers to `k` requests `NEXT` that begin at the counter value `c`. -/
def nextAnswers (c : Nibble) (k : Nat) : List OutEvent := (List.range k).map fun j => .nextRsp (c + BitVec.ofNat 4 j)

theorem add_ofNat_succ (c : Nibble) (j : Nat) : c + BitVec.ofNat 4 (j + 1) = c + 1 + BitVec.ofNat 4 j := by
  rw [Nat.add_comm, BitVec.ofNat_add, BitVec.add_assoc, BitVec.ofNat_eq_ofNat]

/-- The first answer is the counter's value, and the others begin one further on. -/
theorem nextAnswers_succ (c : Nibble) (k : Nat) : nextAnswers c (k + 1) = .nextRsp c :: nextAnswers (c + 1) k := by
  rw [nextAnswers, List.range_succ_eq_map, List.map_cons, List.map_map, BitVec.add_zero]
  simp only [Function.comp_def, Nat.succ_eq_add_one, add_ofNat_succ, nextAnswers]

/-- `k` requests `NEXT` in a row: the first is one step, the others run from the next state. -/
theorem run_nexts (k : Nat) (s : State) (rest : List Move)
    (hm : s.moves = List.replicate k (.request (encode .next)) ++ rest) :
    Host.Core.run Sys2Proof.core k s =
      .next { s with moves := rest, cnt := s.cnt + BitVec.ofNat 4 k, out := s.out ++ nextAnswers s.cnt k } := by
  induction k generalizing s with
  | zero =>
    subst hm
    simp [nextAnswers]
  | succ k ih =>
    have hstep := stepRunsTheDecodedInstruction s _ _ .next hm rfl
    rw [exec_next] at hstep
    rw [core_run_succ hstep, ih _ rfl, nextAnswers_succ, add_ofNat_succ, List.append_assoc, List.singleton_append]

/-- Settles O9: it is the run of `k` requests `NEXT`. -/
theorem consecutiveNextsCountModuloSixteen : Obligations.ConsecutiveNextsCountModuloSixteen := run_nexts

end Sys2Proof.Machine
end

section
/-! SUPPORT. The report as a function of its operands, and `ENCODE` (41_encoder.md R72, R73, R76). -/

namespace Sys2Proof.Machine

/-- The sequence byte is the sequence operand modulo 16 (30_encoding.md R54). -/
theorem seqByte_eq_iff (n n' : Nat) : seqByte n = seqByte n' ↔ n % 16 = n' % 16 := by
  rw [← BitVec.toNat_inj, seqByte_toNat, seqByte_toNat]

/-- Bytes 0, 9 and 10 give back what `encodeReport` keeps of its operands. -/
theorem encodeReport_eq_iff (n n' : Nat) (sub sub' arg arg' : Byte) :
    encodeReport n sub arg = encodeReport n' sub' arg' ↔ n % 16 = n' % 16 ∧ sub = sub' ∧ arg = arg' := by
  constructor
  · intro h
    have h0 : seqByte n = seqByte n' := congrArg (fun B : Report => B[0]) h
    have h9 : sub = sub' := congrArg (fun B : Report => B[9]) h
    have h10 : arg = arg' := congrArg (fun B : Report => B[10]) h
    exact ⟨(seqByte_eq_iff n n').1 h0, h9, h10⟩
  · rintro ⟨hn, rfl, rfl⟩
    rw [encodeReport, (seqByte_eq_iff n n').2 hn, ← encodeReport]

/-- Settles O6: the operands reach the three stamped bytes only, and those bytes give them back. -/
theorem reportsDifferOnlyInTheStampedBytes : Obligations.ReportsDifferOnlyInTheStampedBytes :=
  fun n n' sub sub' arg arg' => ⟨fun _ => encodeReport_getElem_fixed n n' sub sub' arg arg',
    encodeReport_eq_iff n n' sub sub' arg arg'⟩

/-- Everything `ENCODE` does (R72, R73). -/
theorem exec_encode (n : Nat) (sub arg : Byte) (s : State) :
    exec (.encode n sub arg) s = .next { s with out := s.out ++ [.encodeRsp (encodeReport n sub arg)] } := rfl

/-- Settles O7: the answer is the report, whose bytes are those R72 lists. -/
theorem encodeAnswersTheListedBytes : Obligations.EncodeAnswersTheListedBytes :=
  fun n sub arg s => ⟨encodeReport n sub arg, encodeReport_toList n sub arg, exec_encode n sub arg s⟩

end Sys2Proof.Machine
end

section
/-! SUPPORT. The events a step adds: every transmission among them is a report of the block under a fresh tag
(42_sender.md R78, R80). -/

namespace Sys2Proof.Machine

/-- `s'` has emitted `evs` after the events of `s`, and each transmission among them has the identifier of every send, a
report of the block, and a tag not in use in `s`, under which the report is pending in `s'`. -/
structure State.Emits (s s' : State) (evs : List OutEvent) : Prop where
  out : s'.out = s.out ++ evs
  sends : ∀ t id B, .txSend t id B ∈ evs →
    id = Config.reportId ∧ IsReport B ∧ t ∉ usedTags s.pend ∧ ∃ e ∈ s'.pend, e.tag = t ∧ e.payload = B

theorem State.Emits.nothing {s s' : State} (h : s'.out = s.out) : s.Emits s' [] :=
  ⟨by rw [h, List.append_nil], fun _ _ _ hmem => nomatch hmem⟩

/-- An event that is no transmission. -/
theorem State.Emits.emit {s s' : State} (h : s'.out = s.out) {e : OutEvent} (he : e.isTxSend = false) :
    s.Emits (s'.emit e) [e] := by
  refine ⟨by rw [State.emit_out, h], fun t id B hmem => ?_⟩
  obtain rfl := List.mem_singleton.1 hmem
  cases he

/-- The only transmission of an issue phase is its own (42_sender.md R78). -/
theorem txSend_mem_issueEvents {o : Owner} {t t' : Tag} {id : Byte} {B B' : Report}
    (h : .txSend t' id B' ∈ issueEvents o t B) : t' = t ∧ id = Config.reportId ∧ B' = B := by
  cases o <;> simpa [issueEvents] using h

/-- The issue phase transmits what it makes pending, under the fresh tag it draws (42_sender.md R78). -/
theorem State.Emits.issue {s s' : State} (hout : s'.out = s.out) (hpend : s'.pend = s.pend) (o : Owner)
    (sub arg : Byte) :
    s.Emits (s'.issue o sub arg) (issueEvents o s'.nextTag (encodeReport s'.cnt.toNat sub arg)) := by
  refine ⟨by rw [issue_out, hout], fun t id B hmem => ?_⟩
  obtain ⟨rfl, rfl, rfl⟩ := txSend_mem_issueEvents hmem
  refine ⟨rfl, isReport_encodeReport _ _ _, hpend ▸ nextTag_fresh s', ⟨s'.nextTag, o, _⟩, ?_, rfl, rfl⟩
  rw [issue_pend]
  exact List.mem_append_right _ (List.mem_singleton_self _)

/-- Every way on from a move adds events, but for a new session, which begins with none. -/
theorem MoveCase.emits {s s' : State} {m : Move} (hc : MoveCase s m s') :
    (m = .newSession ∧ s'.out = []) ∨ ∃ evs, s.Emits s' evs := by
  cases hc with
  | sendIssued | offerIssued | init | openOk | timer =>
    refine .inr ⟨_, .issue ?_ ?_ _ _ _⟩ <;> rfl
  | next | encode | beginOpen | beginFail | openFail | hostDone | hostFail | step1Fail | step3Done | step3Fail =>
    refine .inr ⟨_, .emit ?_ ?_⟩ <;> rfl
  | sendHeld | offerStill | step1Done | setCap | inbound => exact .inr ⟨[], .nothing rfl⟩
  | newSession => exact .inl ⟨rfl, rfl⟩

theorem step_emits {s s' : State} (hs : step s = .next s') :
    (s.moves.head? = some .newSession ∧ s'.out = []) ∨ ∃ evs, s.Emits s' evs := by
  obtain ⟨-, rfl⟩ | ⟨m, rest, hm, hc⟩ := step_next_cases hs
  · exact .inr ⟨[], .nothing rfl⟩
  · rcases hc.emits with ⟨rfl, hout⟩ | ⟨evs, hout, hsends⟩
    · exact .inl ⟨by rw [hm, List.head?_cons], hout⟩
    · exact .inr ⟨evs, hout, hsends⟩

/-- Settles O17: the events added are those of the way the step takes, and a new session adds none. -/
theorem everyTransmissionIsAReportWithIdentifierOne : Obligations.EveryTransmissionIsAReportWithIdentifierOne := by
  intro s s' hs
  rcases step_emits hs with ⟨hhead, hnil⟩ | ⟨added, hadded⟩
  · refine ⟨fun hns => absurd hhead hns, fun evs t id B hout hmem => ?_⟩
    obtain ⟨-, rfl⟩ := List.append_eq_nil_iff.1 (hout.symm.trans hnil)
    cases hmem
  · refine ⟨fun _ => ⟨added, hadded.out⟩, fun evs t id B hout hmem => ?_⟩
    obtain rfl := List.append_cancel_left (hadded.out.symm.trans hout)
    exact hadded.sends t id B hmem

end Sys2Proof.Machine
end

section
/-! SUPPORT. A host `SEND` with a slot free and with none, at its request and when a held one is considered again
(42_sender.md R78, R79). -/

namespace Sys2Proof.Machine

theorem hostFull_eq_true_iff (s : State) : s.hostFull = true ↔ ¬ s.slots.allows (s.countPend .host + 1) := by
  rw [← hostFull_eq_false_iff, Bool.not_eq_false]

theorem exec_send (sub arg : Byte) (s : State) : exec (.send sub arg) s = .next (s.hostSend ⟨sub, arg⟩) := rfl

/-- A host send is held, and nothing else happens, while no slot is free (42_sender.md R79). -/
theorem hostSend_of_full {s : State} (h : s.hostFull = true) (c : Command) :
    s.hostSend c = { s with held := s.held ++ [c] } := by
  rw [State.hostSend, h]
  rfl

/-- A held request considered again with no slot free stays held. -/
theorem takeOfferHeld_of_full {s : State} {k : Nat} {c : Command} (hk : s.held[k]? = some c)
    (h : s.hostFull = true) : takeOfferHeld k s = .next s := by
  simp only [takeOfferHeld, hk, h, if_true]

/-- A held request considered again with a slot free leaves the held ones and is issued. -/
theorem takeOfferHeld_of_free {s : State} {k : Nat} {c : Command} (hk : s.held[k]? = some c)
    (h : s.hostFull = false) :
    takeOfferHeld k s = .next ((s.setHeld (s.held.eraseIdx k)).issue .host c.sub c.arg) := by
  simp only [takeOfferHeld, hk, h, Bool.false_eq_true, if_false]

/-- Settles O11: with a slot free `SEND` is the issue phase, under the state's next tag, as the sequence's own is. -/
theorem sendPerformsTheIssuePhase : Obligations.SendPerformsTheIssuePhase := by
  intro s sub arg
  refine ⟨s.nextTag, nextTag_fresh s, fun hroom => ?_, issue_eq s .init sub arg⟩
  rw [exec_send, hostSend_of_free ((hostFull_eq_false_iff s).2 hroom), issue_eq]
  rfl

/-- Settles O13: each spelling is a host send, which finds no slot free. -/
theorem sendIsHeldWhileHostSlotsAreFull : Obligations.SendIsHeldWhileHostSlotsAreFull := by
  intro s hroom
  have hheld := hostSend_of_full ((hostFull_eq_true_iff s).2 hroom)
  refine ⟨fun sub arg => ?_, ?_, ?_⟩
  · rw [exec_send, hheld]
  · rw [exec_imuOn, hheld]; rfl
  · rw [exec_modeStd60, hheld]; rfl

/-- Settles O14: the held request is found, and a free host slot decides. -/
theorem heldSendIsIssuedOnceASlotIsFree : Obligations.HeldSendIsIssuedOnceASlotIsFree := by
  intro s k c rest hm hk
  rw [step_cons hm]
  refine ⟨fun hroom => ?_, fun hroom => ⟨s.nextTag, nextTag_fresh s, ?_⟩⟩
  · exact takeOfferHeld_of_full (s := { s with moves := rest }) hk ((hostFull_eq_true_iff s).2 hroom)
  · have hissued := takeOfferHeld_of_free (s := { s with moves := rest }) hk ((hostFull_eq_false_iff s).2 hroom)
    rw [takeMove, hissued, issue_eq]
    rfl

end Sys2Proof.Machine
end

section
/-! SUPPORT. Completions: `SEND_DONE` of a pending send by its owner, and the completions the block does not wait for
(42_sender.md R81, R82, R84; 43_init_sequence.md R90 to R94; 60_exceptions.md R111). -/

namespace Sys2Proof.Machine

/-- Settles O15: the entry leaves `PEND`, and its owner's completion is taken with success. -/
theorem sendDoneOkAnswersTheOwner : Obligations.SendDoneOkAnswersTheOwner := by
  intro s t e rest hm he
  have hfound : State.findPend { s with moves := rest } t = some e := he
  rw [step_cons hm]
  exact ⟨fun ho => takeSendDone_host hfound ho true, fun ho hi => takeSendDone_step1 hfound ho hi true,
    fun ho hi => takeSendDone_step3 hfound ho hi true⟩

/-- Settles O16: the entry leaves `PEND`, and its owner's completion raises the failure of its place. -/
theorem sendDoneFailRaisesSendFailure : Obligations.SendDoneFailRaisesSendFailure := by
  intro s t e rest hm he
  have hfound : State.findPend { s with moves := rest } t = some e := he
  rw [step_cons hm]
  exact ⟨fun ho => takeSendDone_host hfound ho false, fun ho hi => takeSendDone_step1 hfound ho hi false,
    fun ho hi => takeSendDone_step3 hfound ho hi false⟩

theorem takeOpenDone_fault {s : State} (h : s.opening = false) (ok : Bool) :
    takeOpenDone ok s = .fault .spuriousOpenDone := by
  rw [takeOpenDone, h]
  rfl

theorem takeSendDone_fault {s : State} {t : Tag} (h : t ∉ usedTags s.pend) (ok : Bool) :
    takeSendDone t ok s = .fault (.spuriousSendDone t) := by
  simp only [takeSendDone, findPend_none.2 h]

theorem takeTimerExpire_fault {s : State} (h : s.tmr = false) : takeTimerExpire s = .fault .spuriousTimerExpire := by
  rw [takeTimerExpire, h]
  rfl

/-- Settles O28: each completion is taken in a state that does not wait for it. -/
theorem unawaitedCompletionsFault : Obligations.UnawaitedCompletionsFault := by
  intro s rest ok t
  refine ⟨fun ho hm => ?_, fun ht hm => ?_, fun ht hm => ?_⟩ <;> rw [step_cons hm]
  · exact takeOpenDone_fault (s := { s with moves := rest }) ho ok
  · exact takeSendDone_fault (s := { s with moves := rest }) ht ok
  · exact takeTimerExpire_fault (s := { s with moves := rest }) ht

end Sys2Proof.Machine
end

section
/-! SUPPORT. The steps that start and continue the sequence: `INIT`, `BEGIN`, `OPEN_DONE` and `TIMER_EXPIRE`
(43_init_sequence.md R89, R92, R95, R98 to R102). -/

namespace Sys2Proof.Machine

/-- Everything the start of the sequence does (43_init_sequence.md R89, R101). -/
theorem startSequence_eq (s : State) :
    s.startSequence =
      { s with
        is := .sensorEnabling
        cnt := s.cnt + 1
        pend := s.pend ++ [⟨s.nextTag, .init, encodeReport s.cnt.toNat 0x40 0x01⟩]
        out := s.out ++ [.txSend s.nextTag 0x01 (encodeReport s.cnt.toNat 0x40 0x01)]
        draws := s.draws + 1 } :=
  issue_eq (s.setIs .sensorEnabling) .init _ _

theorem admitsInit_of_guard {s : State} (hi : s.is = .notStarted) (ho : s.opening = false) : s.admitsInit = true :=
  (admitsInit_iff s).2 ⟨hi, ho⟩

theorem exec_init_of_guard {s : State} (hi : s.is = .notStarted) (ho : s.opening = false) :
    exec .init s = .next s.startSequence :=
  if_pos (admitsInit_of_guard hi ho)

theorem exec_beginSession_of_guard {s : State} (hi : s.is = .notStarted) (ho : s.opening = false) :
    exec .beginSession s = if s.cap then .next ((s.setOpening true).emit .txOpen) else .next (s.raise .capability) :=
  if_pos (admitsInit_of_guard hi ho)

/-- Settles O19: both requests have the guard `admitsInit`. -/
theorem initAndBeginAreRefusedOutsideTheGuard : Obligations.InitAndBeginAreRefusedOutsideTheGuard := by
  intro s hguard
  have hnot : ¬ s.admitsInit = true := mt (admitsInit_iff s).1 hguard
  exact ⟨if_neg hnot, if_neg hnot⟩

theorem not_guard_of_or {s : State} (h : s.is ≠ .notStarted ∨ s.opening = true) :
    ¬ (s.is = .notStarted ∧ s.opening = false) := by
  rintro ⟨hi, ho⟩
  rcases h with hne | ht
  · exact hne hi
  · exact Bool.false_ne_true (ho.symm.trans ht)

/-- Settles O18: in the guard `INIT` starts the sequence, under the state's next tag. -/
theorem initIssuesTheSensorCommand : Obligations.InitIssuesTheSensorCommand := by
  refine fun s => ⟨fun hi ho => ⟨s.nextTag, nextTag_fresh s, ?_⟩, fun h => ?_⟩
  · rw [exec_init_of_guard hi ho, startSequence_eq]
  · exact (initAndBeginAreRefusedOutsideTheGuard s (not_guard_of_or h)).1

/-- Settles O20: in the guard `CAP` decides between the open and the failure. -/
theorem beginOpensOrReportsMissingCapability : Obligations.BeginOpensOrReportsMissingCapability := by
  refine fun s => ⟨fun hi ho hc => ?_, fun hi ho hc => ?_, fun h => ?_⟩
  · exact (exec_beginSession_of_guard hi ho).trans (if_pos hc)
  · exact (exec_beginSession_of_guard hi ho).trans (if_neg (Bool.eq_false_iff.1 hc))
  · exact (initAndBeginAreRefusedOutsideTheGuard s (not_guard_of_or h)).2

theorem takeOpenDone_of_opening {s : State} (h : s.opening = true) (ok : Bool) :
    takeOpenDone ok s = if ok then .next (s.setOpening false).startSequence else .next (s.raise .openFailed) :=
  if_pos h

theorem takeTimerExpire_of_tmr {s : State} (h : s.tmr = true) :
    takeTimerExpire s = .next
      (((s.setTmr false).setIs .modeSwitching).issue .init Config.cmdModeStd60.sub Config.cmdModeStd60.arg) :=
  if_pos h

/-- `OPEN_DONE ok`, with the tag it draws named (43_init_sequence.md R101). -/
theorem step_openDone_ok {s : State} {rest : List Move} (ho : s.opening = true)
    (hm : s.moves = .openDone true :: rest) :
    step s = .next { s with
      moves := rest
      opening := false
      is := .sensorEnabling
      cnt := s.cnt + 1
      pend := s.pend ++ [⟨s.nextTag, .init, encodeReport s.cnt.toNat 0x40 0x01⟩]
      out := s.out ++ [.txSend s.nextTag 0x01 (encodeReport s.cnt.toNat 0x40 0x01)]
      draws := s.draws + 1 } := by
  rw [step_cons hm, takeMove, takeOpenDone_of_opening (s := { s with moves := rest }) ho, if_pos rfl, startSequence_eq]
  rfl

/-- `TIMER_EXPIRE`, with the tag it draws named (43_init_sequence.md R92). -/
theorem step_timerExpire {s : State} {rest : List Move} (ht : s.tmr = true) (hm : s.moves = .timerExpire :: rest) :
    step s = .next { s with
      moves := rest
      tmr := false
      is := .modeSwitching
      cnt := s.cnt + 1
      pend := s.pend ++ [⟨s.nextTag, .init, encodeReport s.cnt.toNat 0x03 0x30⟩]
      out := s.out ++ [.txSend s.nextTag 0x01 (encodeReport s.cnt.toNat 0x03 0x30)]
      draws := s.draws + 1 } := by
  rw [step_cons hm, takeMove, takeTimerExpire_of_tmr (s := { s with moves := rest }) ht, issue_eq]
  rfl

/-- Settles O21: a failed open raises its failure, and a successful one starts the sequence. -/
theorem openDoneReportsOrStartsTheSequence : Obligations.OpenDoneReportsOrStartsTheSequence := by
  refine fun s rest ho => ⟨fun hm => ?_, fun hm => ⟨s.nextTag, nextTag_fresh s, step_openDone_ok ho hm⟩⟩
  rw [step_cons hm, takeMove, takeOpenDone_of_opening (s := { s with moves := rest }) ho]
  rfl

/-- Settles O22: it is `TIMER_EXPIRE` under the state's next tag. -/
theorem timerExpireIssuesTheModeCommand : Obligations.TimerExpireIssuesTheModeCommand :=
  fun s _ ht hm => ⟨s.nextTag, nextTag_fresh s, step_timerExpire ht hm⟩

end Sys2Proof.Machine
end

section
/-! SUPPORT. The transition table of the sequence (43_init_sequence.md R88, R96), each arrow with the events its step
emits, and the law of the sequence along it (R103). -/

namespace Sys2Proof.Machine

/-- Among these events `k` transmissions are answered by no `SEND_ACK`, and `n` are `INIT_RSP`s. -/
def OwnEvents (evs : List OutEvent) (k n : Nat) : Prop :=
  evs.countP OutEvent.isTxSend = evs.countP OutEvent.isSendAck + k ∧ evs.countP OutEvent.isInitRsp = n

theorem OwnEvents.append {a b : List OutEvent} {k n k' n' : Nat} (ha : OwnEvents a k n) (hb : OwnEvents b k' n') :
    OwnEvents (a ++ b) (k + k') (n + n') := by
  obtain ⟨hsends, hrsps⟩ := ha
  obtain ⟨hsends', hrsps'⟩ := hb
  simp only [OwnEvents, List.countP_append]
  omega

/-- One more `INIT_RSP`, which is the last event. -/
theorem OwnEvents.respond {out : List OutEvent} {k n : Nat} (h : OwnEvents out k n) (st : Status) :
    OwnEvents (out ++ [.initRsp st]) k (n + 1) ∧ .initRsp st ∈ out ++ [.initRsp st] :=
  ⟨h.append (k' := 0) (n' := 1) ⟨rfl, rfl⟩, List.mem_append_right _ List.mem_cons_self⟩

/-- The law of the sequence as what the events so far must be in each value of `IS`. -/
def InitState.Law : InitState → List OutEvent → Prop
  | .notStarted, out => OwnEvents out 0 0
  | .sensorEnabling, out => OwnEvents out 1 0
  | .settling, out => OwnEvents out 1 0
  | .modeSwitching, out => OwnEvents out 2 0
  | .done, out => OwnEvents out 2 1 ∧ .initRsp .ok ∈ out
  | .failed, out =>
    (OwnEvents out 1 1 ∧ .initRsp (.fail .sendFailure .step1) ∈ out) ∨
    (OwnEvents out 2 1 ∧ .initRsp (.fail .sendFailure .step3) ∈ out)

theorem sequenceLaw_iff (s : State) : s.SequenceLaw ↔ s.is.Law s.out := by
  have hfields : s.SequenceLaw ↔ _ ∧ _ := ⟨fun ⟨h, h'⟩ => ⟨h, h'⟩, fun ⟨h, h'⟩ => ⟨h, h'⟩⟩
  rw [hfields]
  cases s.is with
  | notStarted | sensorEnabling | settling | modeSwitching => exact Iff.rfl
  | done => exact and_right_comm
  | failed => exact or_and_right.trans (or_congr and_right_comm and_right_comm)

/-- The transition table: from a value of `IS`, emitting events, to a value of `IS`. A step that takes no row of it
stays and emits nothing of the sequence's own. -/
inductive InitState.Arrow : InitState → List OutEvent → InitState → Prop where
  | stay {v evs} (h : OwnEvents evs 0 0) : Arrow v evs v
  | start (t B) : Arrow .notStarted (issueEvents .init t B) .sensorEnabling
  | settle : Arrow .sensorEnabling [] .settling
  | failStep1 : Arrow .sensorEnabling [.initRsp (.fail .sendFailure .step1)] .failed
  | switchMode (t B) : Arrow .settling (issueEvents .init t B) .modeSwitching
  | finish : Arrow .modeSwitching [.initRsp .ok] .done
  | failStep3 : Arrow .modeSwitching [.initRsp (.fail .sendFailure .step3)] .failed

theorem InitState.Arrow.mayBecome {v v' : InitState} {evs : List OutEvent} (h : v.Arrow evs v') : v.mayBecome v' := by
  cases h with
  | stay => cases v <;> simp [InitState.mayBecome]
  | start | settle | failStep1 | switchMode | finish | failStep3 => simp [InitState.mayBecome]

/-- Events that are none of the sequence's own leave its law as it is. -/
theorem InitState.Law.append {v : InitState} {out evs : List OutEvent} (h : v.Law out) (hevs : OwnEvents evs 0 0) :
    v.Law (out ++ evs) := by
  cases v with
  | notStarted | sensorEnabling | settling | modeSwitching => exact OwnEvents.append h hevs
  | done => exact ⟨h.1.append hevs, List.mem_append_left _ h.2⟩
  | failed =>
    rcases h with ⟨hown, hmem⟩ | ⟨hown, hmem⟩
    · exact .inl ⟨hown.append hevs, List.mem_append_left _ hmem⟩
    · exact .inr ⟨hown.append hevs, List.mem_append_left _ hmem⟩

/-- Each arrow keeps the law: the two sends and the one response are emitted where the law counts them. -/
theorem InitState.Arrow.law {v v' : InitState} {out evs : List OutEvent} (h : v.Arrow evs v') (hlaw : v.Law out) :
    v'.Law (out ++ evs) := by
  cases h with
  | stay hevs => exact hlaw.append hevs
  | start t B | switchMode t B => exact OwnEvents.append hlaw (b := issueEvents .init t B) ⟨rfl, rfl⟩
  | settle => exact (List.append_nil out).symm ▸ hlaw
  | failStep1 => exact .inl (OwnEvents.respond hlaw _)
  | finish => exact OwnEvents.respond hlaw _
  | failStep3 => exact .inr (OwnEvents.respond hlaw _)

/-- `s'` is an arrow of the transition table further than `s`, and has emitted that arrow's events. -/
def State.TakesArrow (s s' : State) : Prop := ∃ evs, s'.out = s.out ++ evs ∧ s.is.Arrow evs s'.is

theorem State.TakesArrow.silent {s s' : State} (hi : s'.is = s.is) (hout : s'.out = s.out) : s.TakesArrow s' :=
  ⟨[], by rw [hout, List.append_nil], hi ▸ .stay ⟨rfl, rfl⟩⟩

/-- A transmission of the host is answered by its `SEND_ACK` and is none of the sequence's own (30_encoding.md R53). -/
theorem State.TakesArrow.issue_host {s s' : State} (hi : s'.is = s.is) (hout : s'.out = s.out) (sub arg : Byte) :
    s.TakesArrow (s'.issue .host sub arg) :=
  ⟨_, by rw [issue_out, hout], by rw [issue_is, hi]; exact .stay ⟨rfl, rfl⟩⟩

theorem startSequence_takesArrow {s s' : State} (hi : s.is = .notStarted) (hout : s'.out = s.out) :
    s.TakesArrow s'.startSequence :=
  ⟨_, by rw [State.startSequence, issue_out, State.setIs_out, hout], by
    rw [hi, State.startSequence, issue_is]
    exact .start _ _⟩

/-- Every way on from a move within a session is an arrow of the transition table. -/
theorem MoveCase.takesArrow {s s' : State} {m : Move} (hc : MoveCase s m s') (h : s.Inv) (hm : m ≠ .newSession) :
    s.TakesArrow s' := by
  cases hc with
  | next | encode | beginOpen | beginFail | openFail | hostDone | hostFail => exact ⟨_, rfl, .stay ⟨rfl, rfl⟩⟩
  | sendHeld | offerStill | setCap | inbound => exact .silent rfl rfl
  | sendIssued | offerIssued => exact .issue_host rfl rfl _ _
  | init _ hi _ => exact startSequence_takesArrow hi rfl
  | openOk ho => exact startSequence_takesArrow (h.open_before_start ho) rfl
  | step1Done _ _ hi => exact ⟨[], (List.append_nil _).symm, hi ▸ .settle⟩
  | step1Fail _ _ hi => exact ⟨_, rfl, hi ▸ .failStep1⟩
  | step3Done _ _ hi => exact ⟨_, rfl, hi ▸ .finish⟩
  | step3Fail _ _ hi => exact ⟨_, rfl, hi ▸ .failStep3⟩
  | timer ht => exact ⟨_, issue_out _ _ _ _, by rw [h.timer_iff_settling.1 ht, issue_is]; exact .switchMode _ _⟩
  | newSession => exact absurd rfl hm

/-- A step takes an arrow of the transition table, or starts a new session. -/
theorem step_takesArrow {s s' : State} (h : s.Inv) (hs : step s = .next s') :
    s.TakesArrow s' ∨ s.moves.head? = some .newSession ∧ ∃ s₀ : State, s' = s₀.newSession := by
  obtain ⟨-, rfl⟩ | ⟨m, rest, hmoves, hc⟩ := step_next_cases hs
  · exact .inl (.silent rfl rfl)
  · by_cases hm : m = .newSession
    · subst hm
      cases hc
      exact .inr ⟨by rw [hmoves, List.head?_cons], _, rfl⟩
    · exact .inl (hc.takesArrow (inv_moves h rest) hm)

/-- Settles O44: each arrow of the transition table keeps the law, and a new session begins with it. -/
theorem stepKeepsTheSequenceLaw : Obligations.StepKeepsTheSequenceLaw := by
  intro s s' h hlaw hs
  rcases step_takesArrow h hs with ⟨evs, hout, harrow⟩ | ⟨-, s₀, rfl⟩
  · rw [sequenceLaw_iff, hout]
    exact harrow.law ((sequenceLaw_iff s).1 hlaw)
  · exact newSession_sequenceLaw s₀

/-- Settles O23: a step within a session takes an arrow of the transition table. -/
theorem initStateIsMonotone : Obligations.InitStateIsMonotone := by
  intro s s' h hs hns
  rcases step_takesArrow h hs with ⟨evs, -, harrow⟩ | ⟨hhead, -⟩
  · exact harrow.mayBecome
  · exact absurd hhead hns

end Sys2Proof.Machine
end

section
/-! SUPPORT. Which entries of `PEND` a step adds (42_sender.md R78; 43_init_sequence.md R103). -/

namespace Sys2Proof.Machine

/-- An entry pending after an issue phase was pending before, or is the one issued. -/
theorem mem_pend_issue {s : State} {o : Owner} {sub arg : Byte} {e : PendEntry}
    (he : e ∈ (s.issue o sub arg).pend) :
    e ∈ s.pend ∨ e.owner = o ∧ e.payload = encodeReport s.cnt.toNat sub arg := by
  rw [issue_pend, List.mem_append, List.mem_singleton] at he
  rcases he with he | rfl
  · exact .inl he
  · exact .inr ⟨rfl, rfl⟩

/-- The sequence's own new entry on a way on from a move is its first Command's or, on `TIMER_EXPIRE`, its second's. -/
theorem MoveCase.own_entry {s s' : State} {m : Move} (hc : MoveCase s m s') (h : s.Inv) {e : PendEntry}
    (he : e ∈ s'.pend) (hnew : e ∉ s.pend) (ho : e.owner = .init) :
    (s.is = .notStarted ∧ s'.is = .sensorEnabling ∧ e.payload = encodeReport s.cnt.toNat 0x40 0x01) ∨
    (s.is = .settling ∧ m = .timerExpire ∧ s'.is = .modeSwitching ∧
      e.payload = encodeReport s.cnt.toNat 0x03 0x30) := by
  cases hc with
  | next | encode | sendHeld | beginOpen | beginFail | offerStill | openFail | setCap | inbound => exact absurd he hnew
  | hostDone | hostFail | step1Done | step1Fail | step3Done | step3Fail =>
    exact absurd (List.mem_filter.1 he).1 hnew
  | sendIssued | offerIssued =>
    rcases mem_pend_issue he with hold | ⟨hhost, -⟩
    · exact absurd hold hnew
    · exact nomatch hhost.symm.trans ho
  | init _ hi _ => exact .inl ⟨hi, issue_is _ _ _ _, ((mem_pend_issue he).resolve_left hnew).2⟩
  | openOk hopen =>
    exact .inl ⟨h.open_before_start hopen, issue_is _ _ _ _, ((mem_pend_issue he).resolve_left hnew).2⟩
  | timer ht =>
    exact .inr ⟨h.timer_iff_settling.1 ht, rfl, issue_is _ _ _ _, ((mem_pend_issue he).resolve_left hnew).2⟩
  | newSession => cases he

/-- Settles O24: an entry is added on a way on from the step's first move. -/
theorem sequenceSendsComeInOrder : Obligations.SequenceSendsComeInOrder := by
  intro s s' e h hs he hnew ho
  obtain ⟨-, rfl⟩ | ⟨m, rest, hm, hc⟩ := step_next_cases hs
  · exact absurd he hnew
  · refine (hc.own_entry (inv_moves h rest) he hnew ho).imp_right fun ⟨hi, htimer, hrest⟩ => ⟨hi, ?_, hrest⟩
    rw [hm, List.head?_cons, htimer]

end Sys2Proof.Machine
end

section
/-! SUPPORT. `BEGIN` with a transport that answers `ok` and a timer that expires: five moves to `Done`
(43_init_sequence.md R88, R103). -/

namespace Sys2Proof.Machine

/-- The entry under a fresh tag is the one found under it. -/
theorem findPend_of_fresh {s : State} {pend : List PendEntry} {t : Tag} {o : Owner} {B : Report}
    (hp : s.pend = pend ++ [⟨t, o, B⟩]) (hfresh : t ∉ usedTags pend) : s.findPend t = some ⟨t, o, B⟩ := by
  have hold : pend.find? (fun x => x.tag == t) = none := findPend_none (s := { s with pend := pend }).2 hfresh
  rw [State.findPend, hp, List.find?_append, hold]
  simp

/-- Removing the entry under a fresh tag leaves the others. -/
theorem filter_of_fresh {pend : List PendEntry} {t : Tag} (hfresh : t ∉ usedTags pend) (o : Owner) (B : Report) :
    (pend ++ [(⟨t, o, B⟩ : PendEntry)]).filter (fun x => x.tag != t) = pend := by
  have hkeep : ∀ x ∈ pend, (x.tag != t) = true := fun x hx =>
    bne_iff_ne.2 fun heq => hfresh (List.mem_map.2 ⟨x, hx, heq⟩)
  rw [List.filter_append, List.filter_eq_self.2 hkeep]
  simp

/-- The first send's success, with that send the last one issued (43_init_sequence.md R90). -/
theorem step_sensorEnabled {s : State} {pend : List PendEntry} {t : Tag} {B : Report} {rest : List Move}
    (hfresh : t ∉ usedTags pend) (hp : s.pend = pend ++ [⟨t, .init, B⟩]) (hi : s.is = .sensorEnabling)
    (hm : s.moves = .sendDone t true :: rest) :
    step s = .next { s with moves := rest, pend := pend, is := .settling, tmr := true } := by
  obtain ⟨-, hstep1, -⟩ := sendDoneOkAnswersTheOwner s t _ rest hm (findPend_of_fresh hp hfresh)
  rw [hstep1 rfl hi, hp, filter_of_fresh hfresh]

/-- The second send's success, with that send the last one issued (43_init_sequence.md R93). -/
theorem step_modeSwitched {s : State} {pend : List PendEntry} {t : Tag} {B : Report} {rest : List Move}
    (hfresh : t ∉ usedTags pend) (hp : s.pend = pend ++ [⟨t, .init, B⟩]) (hi : s.is = .modeSwitching)
    (hm : s.moves = .sendDone t true :: rest) :
    step s = .next { s with moves := rest, pend := pend, is := .done, out := s.out ++ [.initRsp .ok] } := by
  obtain ⟨-, -, hstep3⟩ := sendDoneOkAnswersTheOwner s t _ rest hm (findPend_of_fresh hp hfresh)
  rw [hstep3 rfl hi, hp, filter_of_fresh hfresh]

/-- A `BEGIN` placed before the other moves, in its guard with `CAP` = 1 (43_init_sequence.md R98). -/
theorem step_begin {s : State} (hi : s.is = .notStarted) (ho : s.opening = false) (hc : s.cap = true)
    (rest : List Move) :
    step { s with moves := .request (encode .beginSession) :: rest } =
      .next { s with moves := rest, opening := true, out := s.out ++ [.txOpen] } := by
  obtain ⟨hopen, -, -⟩ := beginOpensOrReportsMissingCapability { s with moves := rest }
  rw [stepRunsTheDecodedInstruction _ _ rest .beginSession rfl rfl]
  exact hopen hi ho hc

/-- The tag of the second send, drawn once the first has completed: `PEND` is as before, and one draw is used up. -/
def State.secondTag (s : State) : Tag := State.nextTag { s with draws := s.draws + 1 }

/-- Settles O25: the five steps one after another, the first send under the next tag and the second under the one after
it. -/
theorem healthyBeginReachesDone : Obligations.HealthyBeginReachesDone := by
  intro s rest hi ho hc
  have hfresh : s.secondTag ∉ usedTags s.pend := nextTag_fresh { s with draws := s.draws + 1 }
  refine ⟨s.nextTag, s.secondTag, nextTag_fresh s, hfresh, ?_⟩
  refine Eq.trans (core_run_succ (step_begin hi ho hc _) 4) ?_
  refine Eq.trans (core_run_succ (step_openDone_ok rfl rfl) 3) ?_
  refine Eq.trans (core_run_succ (step_sensorEnabled (nextTag_fresh s) rfl rfl rfl) 2) ?_
  refine Eq.trans (core_run_succ (step_timerExpire rfl rfl) 1) ?_
  refine Eq.trans (core_run_succ (step_modeSwitched hfresh rfl rfl rfl) 0) ?_
  simp [ho, BitVec.add_assoc, State.nextTag, State.secondTag]

end Sys2Proof.Machine
end

section
/-! SUPPORT. `CAP` and the other moves: a step that does not sample it commutes with a change of it (43_init_sequence.md
R99). -/

namespace Sys2Proof.Machine

/-- An outcome with `CAP` at `c` in its next state. -/
def outcomeWithCap (c : Bool) : Host.Outcome State Fault Refusal → Host.Outcome State Fault Refusal
  | .next s => .next (s.setCap c)
  | .fault r => .fault r
  | .refused r => .refused r

theorem issue_setCap (s : State) (c : Bool) (o : Owner) (sub arg : Byte) :
    (s.setCap c).issue o sub arg = (s.issue o sub arg).setCap c := by
  rw [issue_eq, issue_eq]; rfl

theorem hostSend_setCap (s : State) (c : Bool) (cmd : Command) :
    (s.setCap c).hostSend cmd = (s.hostSend cmd).setCap c := by
  rw [State.hostSend, State.hostSend, apply_ite (State.setCap · c), issue_setCap]; rfl

theorem startSequence_setCap (s : State) (c : Bool) : (s.setCap c).startSequence = s.startSequence.setCap c := by
  rw [startSequence_eq, startSequence_eq]; rfl

theorem execInit_setCap (s : State) (c : Bool) : execInit (s.setCap c) = outcomeWithCap c (execInit s) := by
  rw [execInit, execInit, startSequence_setCap, apply_ite (outcomeWithCap c)]; rfl

theorem exec_setCap {i : Instr} (hi : i ≠ .beginSession) (s : State) (c : Bool) :
    exec i (s.setCap c) = outcomeWithCap c (exec i s) := by
  cases i with
  | next | encode | rpt | rptImuOn | rptModeStd60 => rfl
  | send | imuOn | modeStd60 => exact congrArg Host.Outcome.next (hostSend_setCap s c _)
  | init => exact execInit_setCap s c
  | beginSession => exact absurd rfl hi

theorem takeRequest_setCap {bytes : List Byte} (hb : decode bytes ≠ .ok .beginSession) (s : State) (c : Bool) :
    takeRequest bytes (s.setCap c) = outcomeWithCap c (takeRequest bytes s) := by
  cases hd : decode bytes with
  | error e => rw [takeRequest_of_error hd, takeRequest_of_error hd]; rfl
  | ok i =>
    rw [takeRequest_of_decode hd, takeRequest_of_decode hd]
    exact exec_setCap (fun hi => hb (hi ▸ hd)) s c

theorem takeOfferHeld_setCap (k : Nat) (s : State) (c : Bool) :
    takeOfferHeld k (s.setCap c) = outcomeWithCap c (takeOfferHeld k s) := by
  rw [takeOfferHeld, takeOfferHeld, State.setCap_held]
  cases s.held[k]? with
  | none => rfl
  | some cmd =>
    simp only [apply_ite (outcomeWithCap c)]
    exact if_congr Iff.rfl rfl (congrArg Host.Outcome.next (issue_setCap (s.setHeld _) c _ _ _))

theorem takeOpenDone_setCap (ok : Bool) (s : State) (c : Bool) :
    takeOpenDone ok (s.setCap c) = outcomeWithCap c (takeOpenDone ok s) := by
  cases ho : s.opening with
  | false => rw [takeOpenDone_fault ho, takeOpenDone_fault (s := s.setCap c) ho]; rfl
  | true =>
    rw [takeOpenDone_of_opening ho, takeOpenDone_of_opening (s := s.setCap c) ho]
    cases ok with
    | false => rfl
    | true => exact congrArg Host.Outcome.next (startSequence_setCap (s.setOpening false) c)

theorem takeTimerExpire_setCap (s : State) (c : Bool) :
    takeTimerExpire (s.setCap c) = outcomeWithCap c (takeTimerExpire s) := by
  cases ht : s.tmr with
  | false => rw [takeTimerExpire_fault ht, takeTimerExpire_fault (s := s.setCap c) ht]; rfl
  | true =>
    rw [takeTimerExpire_of_tmr ht, takeTimerExpire_of_tmr (s := s.setCap c) ht]
    exact congrArg Host.Outcome.next (issue_setCap ((s.setTmr false).setIs .modeSwitching) c _ _ _)

theorem completeInitSend_setCap (t : Tag) (ok : Bool) (s : State) (c : Bool) :
    completeInitSend t ok (s.setCap c) = outcomeWithCap c (completeInitSend t ok s) := by
  rw [completeInitSend, completeInitSend, State.setCap_is]
  cases s.is with
  | notStarted | settling | done | failed => rfl
  | sensorEnabling | modeSwitching => cases ok <;> rfl

theorem takeSendDone_setCap (t : Tag) (ok : Bool) (s : State) (c : Bool) :
    takeSendDone t ok (s.setCap c) = outcomeWithCap c (takeSendDone t ok s) := by
  have hfound : (s.setCap c).findPend t = s.findPend t := rfl
  rw [takeSendDone, takeSendDone, hfound]
  cases s.findPend t with
  | none => rfl
  | some e =>
    cases ho : e.owner with
    | host => simp only [ho]; cases ok <;> rfl
    | init => simp only [ho]; exact completeInitSend_setCap t ok (s.removePend t) c

theorem takeNewSession_setCap (s : State) (c : Bool) :
    takeNewSession (s.setCap c) = outcomeWithCap c (takeNewSession s) := by
  rw [takeNewSession, takeNewSession, apply_ite (outcomeWithCap c)]; rfl

/-- Every move but a `BEGIN` and a change of `CAP` itself goes the same way whatever `CAP` is, and hands it on. -/
theorem takeMove_setCap {m : Move} (hbegin : ∀ bytes, m = .request bytes → decode bytes ≠ .ok .beginSession)
    (hset : ∀ b, m ≠ .setCap b) (s : State) (c : Bool) :
    takeMove m (s.setCap c) = outcomeWithCap c (takeMove m s) := by
  cases m with
  | request bytes => exact takeRequest_setCap (hbegin bytes rfl) s c
  | offerHeld k => exact takeOfferHeld_setCap k s c
  | openDone ok => exact takeOpenDone_setCap ok s c
  | sendDone t ok => exact takeSendDone_setCap t ok s c
  | timerExpire => exact takeTimerExpire_setCap s c
  | setCap b => exact absurd rfl (hset b)
  | inbound => rfl
  | newSession => exact takeNewSession_setCap s c

/-- Settles O31: the step commutes with a change of `CAP`, and the environment's own change overrides it. -/
theorem capIsReadOnlyByBegin : Obligations.CapIsReadOnlyByBegin := by
  intro s c hbegin
  cases hm : s.moves with
  | nil =>
    rw [step_nil hm, step_nil (s := { s with cap := c, moves := [] }) rfl]
    exact ⟨c, by rw [hm]⟩
  | cons m rest =>
    rw [step_cons hm, step_cons (s := { s with cap := c, moves := m :: rest }) rfl]
    by_cases hset : ∃ b, m = .setCap b
    · obtain ⟨b, rfl⟩ := hset
      exact ⟨b, rfl⟩
    · have hcommute : takeMove m { s with moves := rest, cap := c } =
          outcomeWithCap c (takeMove m { s with moves := rest }) :=
        takeMove_setCap (fun bytes hr => hbegin bytes rest (hr ▸ hm)) (fun b hb => hset ⟨b, hb⟩)
          { s with moves := rest } c
      rw [hcommute]
      cases takeMove m { s with moves := rest } with
      | next a => exact ⟨c, rfl⟩
      | fault r => rfl
      | refused r => rfl

end Sys2Proof.Machine
end

section
/-! SUPPORT. Failures and inbound reports: which ways on from a move add a failure response, and what each
of those writes (60_exceptions.md R104 to R108, R112, R115). -/

namespace Sys2Proof.Machine

/-- The one response a failure emits (60_exceptions.md R105 to R107). -/
def Failure.response : Failure → OutEvent
  | .capability => .beginRspFail .capabilityUnavailable .beginRequest
  | .openFailed => .beginRspFail .openFailure .transportOpen
  | .hostSend t => .sendRsp t (.fail .sendFailure .hostSend)
  | .step1 => .initRsp (.fail .sendFailure .step1)
  | .step3 => .initRsp (.fail .sendFailure .step3)

theorem raise_out (s : State) (f : Failure) : (s.raise f).out = s.out ++ [f.response] := by
  cases f with
  | capability | openFailed | hostSend | step1 | step3 => rfl

/-- Raising a failure adds its response and no other event (60_exceptions.md R115). -/
theorem eq_response_of_raise_out {s : State} {f : Failure} {evs : List OutEvent}
    (h : (s.raise f).out = s.out ++ evs) : evs = [f.response] :=
  List.append_cancel_left (h.symm.trans (raise_out s f))

/-- None of the events of `s'` beyond those of `s` is a failure response. -/
def State.AddsNoFailure (s s' : State) : Prop :=
  ∀ evs, s'.out = s.out ++ evs → ∀ e ∈ evs, e.isFailure = false

theorem State.AddsNoFailure.of_out {s s' : State} {added : List OutEvent} (h : s'.out = s.out ++ added)
    (hadded : ∀ e ∈ added, e.isFailure = false) : s.AddsNoFailure s' := by
  intro evs hout
  obtain rfl := List.append_cancel_left (hout.symm.trans h)
  exact hadded

theorem State.AddsNoFailure.silent {s s' : State} (h : s'.out = s.out) : s.AddsNoFailure s' :=
  .of_out (h.trans (List.append_nil _).symm) fun _ he => nomatch he

theorem State.AddsNoFailure.emit {s s' : State} (h : s'.out = s.out) {e : OutEvent} (he : e.isFailure = false) :
    s.AddsNoFailure (s'.emit e) :=
  .of_out (by rw [emit_out, h]) (List.forall_mem_singleton.2 he)

theorem State.AddsNoFailure.issue {s s' : State} (h : s'.out = s.out) (o : Owner) (sub arg : Byte) :
    s.AddsNoFailure (s'.issue o sub arg) :=
  .of_out (by rw [issue_out, h]) (by cases o <;> simp [issueEvents, OutEvent.isFailure])

/-- A new session begins with no event, so it adds none. -/
theorem State.AddsNoFailure.newSession (s s₀ : State) : s.AddsNoFailure s₀.newSession := by
  intro evs hout
  obtain ⟨-, rfl⟩ := List.append_eq_nil_iff.1 hout.symm
  exact fun _ he => nomatch he

/-- Settles O26: of the ways on from a move, five raise a failure, each with the writes of its place, and the others add
no failure response. -/
theorem failureMakesOnlyTheListedWrites : Obligations.FailureMakesOnlyTheListedWrites := by
  intro s s' evs hs hout ⟨e, he, hfail⟩
  have hadds : ¬ s.AddsNoFailure s' := fun h => Bool.false_ne_true ((h evs hout e he).symm.trans hfail)
  obtain ⟨-, rfl⟩ | ⟨m, rest, hm, hc⟩ := step_next_cases hs
  · exact absurd (.silent rfl) hadds
  rw [hm]
  cases hc with
  | next | encode | beginOpen | hostDone | step3Done => exact absurd (.emit rfl rfl) hadds
  | sendIssued | offerIssued | init | openOk | timer => exact absurd (.issue rfl _ _ _) hadds
  | sendHeld | offerStill | step1Done | setCap | inbound => exact absurd (.silent rfl) hadds
  | newSession => exact absurd (.newSession s _) hadds
  | beginFail hd _ _ hcap =>
    obtain rfl := eq_response_of_raise_out hout
    exact .inl ⟨⟨_, rfl, hd⟩, hcap, rfl, rfl⟩
  | openFail =>
    obtain rfl := eq_response_of_raise_out hout
    exact .inr (.inl ⟨rfl, rfl, rfl⟩)
  | hostFail hpend howner =>
    obtain rfl := eq_response_of_raise_out hout
    exact .inr (.inr (.inl ⟨_, _, rfl, hpend, howner, rfl, rfl⟩))
  | step1Fail hpend howner hi =>
    obtain rfl := eq_response_of_raise_out hout
    exact .inr (.inr (.inr ⟨_, _, rfl, hpend, howner, .inl ⟨hi, rfl⟩, rfl⟩))
  | step3Fail hpend howner hi =>
    obtain rfl := eq_response_of_raise_out hout
    exact .inr (.inr (.inr ⟨_, _, rfl, hpend, howner, .inr ⟨hi, rfl⟩, rfl⟩))

/-- Settles O27: each code is a row of the code functions. -/
theorem errorAndOriginCodes : Obligations.ErrorAndOriginCodes :=
  ⟨rfl, rfl, rfl, rfl, rfl, rfl, rfl, rfl, rfl⟩

/-- Settles O29: taking an inbound notification goes on with the state it is given. -/
theorem inboundReportTouchesNoState : Obligations.InboundReportTouchesNoState :=
  fun _ _ _ hm => step_cons hm

end Sys2Proof.Machine
end

section
/-! SUPPORT. What is suspended across a step: a pending send, a pending open and the running delay each last until their own
answer (70_reset_and_hazards.md R133; 10_state.md R21). -/

namespace Sys2Proof.Machine

/-- An entry outlives the removal of another tag. -/
theorem mem_removePend {s : State} {e : PendEntry} (he : e ∈ s.pend) {t : Tag} (ht : e.tag ≠ t) :
    e ∈ (s.removePend t).pend :=
  List.mem_filter.2 ⟨he, bne_iff_ne.2 ht⟩

theorem mem_pend_issue_of_mem {s : State} {e : PendEntry} (he : e ∈ s.pend) (o : Owner) (sub arg : Byte) :
    e ∈ (s.issue o sub arg).pend := by
  rw [issue_pend]
  exact List.mem_append_left _ he

/-- A pending entry stays on every way on from a move but its own completion; a new session finds none. -/
theorem MoveCase.mem_pend {s s' : State} {m : Move} (hc : MoveCase s m s') {e : PendEntry} (he : e ∈ s.pend)
    (hm : ∀ ok, m ≠ .sendDone e.tag ok) : e ∈ s'.pend := by
  cases hc with
  | next | encode | sendHeld | beginOpen | beginFail | offerStill | openFail | setCap | inbound => exact he
  | sendIssued | offerIssued | init | openOk | timer =>
    refine mem_pend_issue_of_mem ?_ _ _ _
    exact he
  | hostDone | hostFail | step1Done | step1Fail | step3Done | step3Fail =>
    exact mem_removePend he fun ht => hm _ (congrArg (Move.sendDone · _) ht.symm)
  | newSession hq =>
    obtain ⟨hnil, -⟩ := (quiescent_iff s).1 hq
    rw [hnil] at he
    cases he

/-- A pending open stays on every way on from a move but `OPEN_DONE`. -/
theorem MoveCase.opening_eq_true {s s' : State} {m : Move} (hc : MoveCase s m s') (ho : s.opening = true)
    (hm : ∀ ok, m ≠ .openDone ok) : s'.opening = true := by
  cases hc with
  | next | encode | sendHeld | beginFail | offerStill | hostDone | hostFail | step1Done | step1Fail | step3Done
  | step3Fail | setCap | inbound => exact ho
  | sendIssued | offerIssued | init | timer => exact (issue_opening _ _ _ _).trans ho
  | beginOpen => rfl
  | openOk | openFail => exact absurd rfl (hm _)
  | newSession hq =>
    obtain ⟨-, hclosed, -⟩ := (quiescent_iff s).1 hq
    exact absurd (hclosed.symm.trans ho) Bool.false_ne_true

/-- The delay runs on through every way on from a move but `TIMER_EXPIRE`. -/
theorem MoveCase.tmr_eq_true {s s' : State} {m : Move} (hc : MoveCase s m s') (ht : s.tmr = true)
    (hm : m ≠ .timerExpire) : s'.tmr = true := by
  cases hc with
  | next | encode | sendHeld | beginOpen | beginFail | offerStill | openFail | hostDone | hostFail | step1Fail
  | step3Done | step3Fail | setCap | inbound => exact ht
  | sendIssued | offerIssued | init | openOk => exact (issue_tmr _ _ _ _).trans ht
  | step1Done => rfl
  | timer => exact absurd rfl hm
  | newSession hq =>
    obtain ⟨-, -, hdisarmed, -⟩ := (quiescent_iff s).1 hq
    exact absurd (hdisarmed.symm.trans ht) Bool.false_ne_true

/-- Settles O30: each of the three lasts on every way on from the step's first move but its own answer. -/
theorem suspendedUntilItsOwnAnswer : Obligations.SuspendedUntilItsOwnAnswer := by
  intro s s' hs
  obtain ⟨-, rfl⟩ | ⟨m, rest, hm, hc⟩ := step_next_cases hs
  · exact ⟨fun _ he _ => he, fun ho _ => ho, fun ht _ => ht⟩
  · have hhead : ∀ {m' : Move}, s.moves.head? ≠ some m' → m ≠ m' := by
      rintro m' hne rfl
      exact hne (by rw [hm, List.head?_cons])
    exact ⟨fun _ he hne => hc.mem_pend he fun ok => hhead (hne ok),
      fun ho hne => hc.opening_eq_true ho fun ok => hhead (hne ok), fun ht hne => hc.tmr_eq_true ht (hhead hne)⟩

end Sys2Proof.Machine
end

section
/-! SUPPORT. The end of a run: once the sequence has started, a request that is no `SEND` leaves only the answers of `NEXT`
and `ENCODE` (70_reset_and_hazards.md R128; 43_init_sequence.md R95; 30_encoding.md R60). -/

namespace Sys2Proof.Machine

/-- The answers of the two operations that start nothing (40_counter.md R67, 41_encoder.md R72). -/
def OutEvent.IsAnswer (e : OutEvent) : Prop := (∃ v, e = .nextRsp v) ∨ ∃ B, e = .encodeRsp B

/-- `s'` is `s` with the coming moves at `rest`, but for the counter and some answers emitted. -/
def State.Answers (s : State) (rest : List Move) (s' : State) : Prop :=
  ∃ c evs, s' = { s with moves := rest, cnt := c, out := s.out ++ evs } ∧ ∀ e ∈ evs, e.IsAnswer

theorem State.Answers.silent (s : State) (rest : List Move) : s.Answers rest { s with moves := rest } :=
  ⟨s.cnt, [], by rw [List.append_nil], fun _ he => nomatch he⟩

theorem State.Answers.trans {s s' s'' : State} {ms rest : List Move} (h : s.Answers ms s')
    (h' : s'.Answers rest s'') : s.Answers rest s'' := by
  obtain ⟨c, evs, rfl, hevs⟩ := h
  obtain ⟨c', evs', rfl, hevs'⟩ := h'
  refine ⟨c', evs ++ evs', by rw [List.append_assoc], fun e he => ?_⟩
  exact (List.mem_append.1 he).elim (hevs e) (hevs' e)

/-- One request after the sequence has started, no `SEND`: answered at once, or refused and passed over. -/
theorem answers_move_request {s : State} (hi : s.is ≠ .notStarted) {bytes : List Byte} {rest : List Move}
    (hm : s.moves = .request bytes :: rest) (hsend : ∀ sub arg, decode bytes ≠ .ok (.send sub arg)) :
    s.Answers rest s.move := by
  cases hs : step s with
  | next s' =>
    rw [move_of_next hs]
    obtain ⟨hnil, -⟩ | ⟨m, rest', hm', hc⟩ := step_next_cases hs
    · rw [hm] at hnil; cases hnil
    · obtain ⟨rfl, rfl⟩ := List.cons.inj (hm.symm.trans hm')
      cases hc with
      | next => exact ⟨s.cnt + 1, [.nextRsp s.cnt], rfl, List.forall_mem_singleton.2 (.inl ⟨_, rfl⟩)⟩
      | encode => exact ⟨s.cnt, [.encodeRsp _], rfl, List.forall_mem_singleton.2 (.inr ⟨_, rfl⟩)⟩
      | sendIssued hd | sendHeld hd => exact absurd hd (hsend _ _)
      | init _ hn | beginOpen _ hn | beginFail _ hn => exact absurd hn hi
  | fault r => exact absurd hs (request_never_faults hm r)
  | refused r =>
    rw [move_of_refused hs, passOver_request hm]
    exact .silent s rest

/-- As many moves of the run as there are such requests. -/
theorem answers_iterate_move (reqs : List (List Byte)) (rest : List Move) {s : State} (hi : s.is ≠ .notStarted)
    (hm : s.moves = reqs.map .request ++ rest)
    (hsend : ∀ bytes ∈ reqs, ∀ sub arg, decode bytes ≠ .ok (.send sub arg)) :
    s.Answers rest (State.move^[reqs.length] s) := by
  induction reqs generalizing s with
  | nil =>
    obtain rfl : s.moves = rest := hm
    exact .silent s s.moves
  | cons bytes reqs ih =>
    obtain ⟨hfirst, hothers⟩ := List.forall_mem_cons.1 hsend
    have hone := answers_move_request hi hm hfirst
    have hi' : s.move.is ≠ .notStarted := by
      obtain ⟨c, evs, heq, -⟩ := hone
      rw [heq]
      exact hi
    exact hone.trans (ih hi' (move_request_moves hm) hothers)

theorem comingRequests_eq_nil {s : State} (h : ∀ m ∈ s.moves, m.isRequest = false) : s.comingRequests = [] :=
  List.filter_eq_nil_iff.2 fun m hm => Bool.eq_false_iff.1 (h m (List.takeWhile_subset _ hm))

/-- Settles O47: the requests are answered or passed over one by one, and what decides the end of the run is as it was. -/
theorem runEndsWithItsLastRequest : Obligations.RunEndsWithItsLastRequest := by
  intro s reqs rest hover hq hheld hsend hrest hm
  have hi : s.is ≠ .notStarted := by rcases hover with h | h <;> rw [h] <;> exact (nomatch ·)
  obtain ⟨c, evs, heq, hevs⟩ := answers_iterate_move reqs rest hi hm hsend
  rw [heq]
  exact ⟨⟨comingRequests_eq_nil hrest, hheld, hq⟩, rfl, rfl, evs, rfl, hevs⟩

end Sys2Proof.Machine
end

section
/-! SUPPORT. A quiescent state, a new session, a change of `CAP`, and the wait while nobody moves (70_reset_and_hazards.md
R123, R125, R128, R133, R140). -/

namespace Sys2Proof.Machine

/-- Settles O33: a quiescent state waits for none of the three events. -/
theorem quiescentStateEnablesNoEvent : Obligations.QuiescentStateEnablesNoEvent := by
  intro s m rest hq hm hevent
  obtain ⟨hpend, hopening, htmr, -⟩ := (quiescent_iff s).1 hq
  rw [step_cons hm]
  rcases hevent with ⟨ok, rfl⟩ | ⟨t, ok, rfl⟩ | rfl
  · exact ⟨_, takeOpenDone_fault (s := { s with moves := rest }) hopening ok⟩
  · have hunused : t ∉ usedTags s.pend := by
      rw [hpend]
      exact List.not_mem_nil
    exact ⟨_, takeSendDone_fault (s := { s with moves := rest }) hunused ok⟩
  · exact ⟨_, takeTimerExpire_fault (s := { s with moves := rest }) htmr⟩

/-- Settles O37, by induction on the number of steps: each is the idle step. -/
theorem blockWaitsWhileNobodyMoves : Obligations.BlockWaitsWhileNobodyMoves := by
  intro k s hm
  induction k with
  | zero => exact core_run_zero s
  | succ k ih => exact (core_run_succ (step_nil hm) k).trans ih

theorem takeNewSession_of_ended {s : State} (hq : s.quiescent = true) (hheld : s.held = []) :
    takeNewSession s = .next s.newSession := by
  rw [takeNewSession, hq, hheld]
  rfl

theorem takeNewSession_of_not_ended {s : State} (h : s.quiescent = false ∨ s.held ≠ []) :
    takeNewSession s = .refused .resetWhilePending := by
  refine if_neg fun hended => ?_
  obtain ⟨hq, hempty⟩ := Bool.and_eq_true_iff.1 hended
  rcases h with hbusy | hheld
  · exact Bool.false_ne_true (hbusy.symm.trans hq)
  · exact hheld (List.isEmpty_iff.1 hempty)

/-- Settles O39: whether the run has ended decides between the new session and the refusal. -/
theorem newSessionOnlyFromAnEndedRun : Obligations.NewSessionOnlyFromAnEndedRun := by
  intro s rest hm
  rw [step_cons hm]
  refine ⟨fun hq hheld => ?_, fun h => takeNewSession_of_not_ended (s := { s with moves := rest }) h⟩
  refine (takeNewSession_of_ended (s := { s with moves := rest }) hq hheld).trans ?_
  rw [State.newSession, hheld]
  rfl

/-- Settles O45: taking the change goes on with `CAP` at the new value. -/
theorem environmentSetsCap : Obligations.EnvironmentSetsCap := fun _ _ _ hm => step_cons hm

end Sys2Proof.Machine
end
